-- ==== Sys2Proof/Word.lean ====
section
/-! DEFINITION. The word types of P2PK-CORE (spec/00_scope.md R8, R10): bytes, 64-bit SHA-512 words, 32-bit path
indices, 256-bit scalars, and byte strings of a fixed length. No quantity of this hardware is signed (R10). -/

namespace Sys2Proof

/-- A byte, an integer in 0..255 (R10). -/
abbrev Byte := BitVec 8

/-- A SHA-512 word: WORD_BITS = 64 (R8). Its addition is `+64`, which wraps modulo 2^64 (R10, R124). -/
abbrev Word := BitVec 64

/-- A derivation-path index: INDEX_BITS = 32 (R8). -/
abbrev PathIndex := BitVec 32

/-- A scalar: SCALAR_BITS = 256 (R8). -/
abbrev Scalar := BitVec 256

/-- A byte string whose length `n` the spec fixes (KEY_BYTES, DIGEST_BYTES, BLOCK_BYTES, ... of R8). -/
abbrev Bytes (n : Nat) := Vector Byte n

end Sys2Proof
end

