-- ==== Sys2Proof/Config.lean ====
section
/-! DEFINITION. What the spec leaves open. Its other open parameters (spec/00_scope.md R9) leave no trace here: no rule
depends on LIMB_BITS, LIMB_COUNT or PMUL_SCHEDULE, LANES is 1 in the architectural model, and PROG is the field `prog` of
`State`. -/

namespace Sys2Proof.Config

/-- The value of FInv(0), before its reduction modulo P25519. R174 leaves FInv(0) undefined, so nothing is known of this
number: it has no body, and a claim about FInv holds whatever it is. (DESIGN CHOICE, safe:
notes/assumptions/1.md) -/
opaque fInvZero : Nat

/-- The coordinates, before their reduction modulo P25519, of the multiple of the base point that PMUL computes from a scalar
of 2^255 or more. R181 defines ScalarMulBase below 2^255 only (no run reaches such a scalar, R26), so nothing is known of
these numbers. (DESIGN CHOICE, safe: notes/assumptions/8.md) -/
opaque mulBaseBeyond : Nat → Nat × Nat

end Sys2Proof.Config
end

