-- ==== Sys2Proof/Syntax.lean ====
section
/-! DEFINITION. The eleven operations of P2PK-CORE (spec/30_encoding.md R93), one constructor per row of
spec/opcode_table.json, and the assembler's view of them: listings (R96) and pseudo-operations (R97). -/

namespace Sys2Proof

/-- The lane operand p of R92: lane 1 (path1, pubkey1) or lane 2 (path2, pubkey2). -/
inductive Lane where
  | one
  | two
deriving DecidableEq, Repr

/-- The number p in {1, 2} by which the spec names a lane (R92). -/
def Lane.number : Lane → Nat
  | .one => 1
  | .two => 2

/-- The level operand l of R92, in 0..3: CKD p,l derives level l + 1 from level l. -/
abbrev Level := Fin 4

/-- The operations of R93. -/
inductive Instr where
  | chk
  | shai
  | shab
  | hmac
  | mkd
  | ckd (p : Lane) (l : Level)
  | clamp (p : Lane)
  | pmul (p : Lane)
  | penc (p : Lane)
  | bind (p : Lane)
  | halt
deriving DecidableEq, Repr

/-- The mnemonic of an operation (R93). -/
def Instr.mnemonic : Instr → String
  | .chk => "CHK"
  | .shai => "SHAI"
  | .shab => "SHAB"
  | .hmac => "HMAC"
  | .mkd => "MKD"
  | .ckd _ _ => "CKD"
  | .clamp _ => "CLAMP"
  | .pmul _ => "PMUL"
  | .penc _ => "PENC"
  | .bind _ => "BIND"
  | .halt => "HALT"

/-- An operation in the assembler's form (R96): MNEMONIC, MNEMONIC p, or CKD p,l. -/
def Instr.listing (i : Instr) : String :=
  match i with
  | .chk | .shai | .shab | .hmac | .mkd | .halt => i.mnemonic
  | .ckd p l => i.mnemonic ++ " " ++ toString p.number ++ "," ++ toString l.val
  | .clamp p | .pmul p | .penc p | .bind p => i.mnemonic ++ " " ++ toString p.number

/-- A program before assembly: one operation per line (R96). -/
abbrev Program := List Instr

/-- The pseudo-operation CHAIN p (R97). -/
def pseudoChain (p : Lane) : Program := [.ckd p 0, .ckd p 1, .ckd p 2, .ckd p 3]

/-- The pseudo-operation PUB p (R97). -/
def pseudoPub (p : Lane) : Program := [.clamp p, .pmul p, .penc p]

/-- The pseudo-operation LANE p (R97). -/
def pseudoLane (p : Lane) : Program := pseudoChain p ++ pseudoPub p ++ [.bind p]

/-- The pseudo-operation PROVE (R97): the operations of ROM_CANON (R101). -/
def pseudoProve : Program := [.chk, .mkd] ++ pseudoLane .one ++ pseudoLane .two ++ [.halt]

end Sys2Proof
end

