-- ==== Sys2Proof/WellFormed.lean ====
section
/-! DEFINITION. Well-formedness of programs (spec/30_encoding.md R100). The operands of one operation need no check of their
own: `Lane` and `Level` hold exactly the values of R92, so every `Instr` is a legal operation. -/

namespace Sys2Proof

/-- The program fits the store of 32 op words (R98, R100: n <= 32). -/
def Program.fits (prog : Program) : Bool := prog.length ≤ 32

/-- The last operation is HALT (R100: `PROG[n-1]` = HALT). -/
def Program.endsInHalt (prog : Program) : Bool := prog.getLast? == some .halt

/-- No operation before the last one is HALT (R100). -/
def Program.noEarlyHalt (prog : Program) : Bool := prog.dropLast.all (fun i => i != .halt)

/-- R100: a program is well-formed. -/
def Program.wellFormed (prog : Program) : Bool := prog.fits && prog.endsInHalt && prog.noEarlyHalt

/-- Every operation is well-formed: its operands are values of R92 by their types. -/
def Instr.wellFormed : Instr → Bool
  | .ckd p l => (p.number == 1 || p.number == 2) && l.val ≤ 3
  | .clamp p | .pmul p | .penc p | .bind p => p.number == 1 || p.number == 2
  | .chk | .shai | .shab | .hmac | .mkd | .halt => true

end Sys2Proof
end

