-- ==== Sys2Proof/Decode.lean ====
section
/-! DEFINITION. Decoding and encoding of op words (spec/30_encoding.md R90 to R95, R98, R100). -/

namespace Sys2Proof

/-- Why an op word is illegal: the four classes of R95, under names of the model's own. (DESIGN CHOICE, safe:
notes/assumptions/14.md) -/
inductive IllegalWord where
  /-- The opcode field is 0x0 or 0xB to 0xE. -/
  | unassignedOpcode
  /-- Bit 2, the field Z, is 1. -/
  | zBitSet
  /-- Bit 3, the field P, is 1 in an operation without a lane operand. -/
  | laneBitSet
  /-- Bits 1:0, the field L, are not 0 in an operation without a level operand. -/
  | levelBitsSet
deriving DecidableEq, Repr

/-- The opcode field OPC, bits 7:4 (R91). -/
def opcodeField (w : Byte) : Nat := (w >>> 4).toNat

/-- The lane operand p = P + 1, where P is bit 3 (R91, R92). -/
def laneField (w : Byte) : Lane := if w.getLsbD 3 then .two else .one

/-- The level operand l = L, bits 1:0 (R91, R92). -/
def levelField (w : Byte) : Level := Fin.ofNat 4 w.toNat

/-- One row of the opcode map of R93: a word `w` matches it when `w AND mask = value`. -/
structure OpcodeRow where
  mnemonic : String
  value : Byte
  mask : Byte
  operation : Byte → Instr

/-- The opcode map of R93. -/
def opcodeRows : List OpcodeRow :=
  [ ⟨"CHK", 0x10, 0xFF, fun _ => .chk⟩,
    ⟨"SHAI", 0x20, 0xFF, fun _ => .shai⟩,
    ⟨"SHAB", 0x30, 0xFF, fun _ => .shab⟩,
    ⟨"HMAC", 0x40, 0xFF, fun _ => .hmac⟩,
    ⟨"MKD", 0x50, 0xFF, fun _ => .mkd⟩,
    ⟨"CKD", 0x60, 0xF4, fun w => .ckd (laneField w) (levelField w)⟩,
    ⟨"CLAMP", 0x70, 0xF7, fun w => .clamp (laneField w)⟩,
    ⟨"PMUL", 0x80, 0xF7, fun w => .pmul (laneField w)⟩,
    ⟨"PENC", 0x90, 0xF7, fun w => .penc (laneField w)⟩,
    ⟨"BIND", 0xA0, 0xF7, fun w => .bind (laneField w)⟩,
    ⟨"HALT", 0xF0, 0xFF, fun _ => .halt⟩ ]

/-- R93: a word matches a row when `(w AND mask) = match`. -/
def OpcodeRow.accepts (r : OpcodeRow) (w : Byte) : Bool := w &&& r.mask == r.value

/-- Which must-be-zero requirement of R91 a word that matches no row violates (R95). -/
def illegalReason (w : Byte) : IllegalWord :=
  if opcodeField w == 0 || (0xB ≤ opcodeField w && opcodeField w ≤ 0xE) then .unassignedOpcode
  else if w.getLsbD 2 then .zBitSet
  else if w.getLsbD 3 && (opcodeField w ≤ 5 || opcodeField w == 0xF) then .laneBitSet
  else .levelBitsSet

/-- `Decode(w)` of R93: total; a word that matches no row is illegal. -/
def decode (w : Byte) : Except IllegalWord Instr :=
  match opcodeRows.find? (·.accepts w) with
  | some r => .ok (r.operation w)
  | none => .error (illegalReason w)

/-- The field P = p - 1 of R91, as a byte. -/
def laneBit : Lane → Byte
  | .one => 0
  | .two => 1

/-- The op word of an operation, from the encodings that R113, R114, R134, R141, R152, R161, R183, R191, R200, R201 and R202
state. -/
def encode : Instr → Byte
  | .chk => 0x10
  | .shai => 0x20
  | .shab => 0x30
  | .hmac => 0x40
  | .mkd => 0x50
  | .ckd p l => 0x60 ||| (laneBit p <<< 3) ||| BitVec.ofNat 8 l.val
  | .clamp p => 0x70 ||| (laneBit p <<< 3)
  | .pmul p => 0x80 ||| (laneBit p <<< 3)
  | .penc p => 0x90 ||| (laneBit p <<< 3)
  | .bind p => 0xA0 ||| (laneBit p <<< 3)
  | .halt => 0xF0

/-- A program store of 32 op words (R98). -/
abbrev ProgramStore := Vector Byte 32

/-- The op words of a list of operations, cut or filled with the unprogrammed word 0x00 (R94) to 32 words. -/
def assembleWords : Nat → Program → List Byte
  | 0, _ => []
  | n + 1, [] => 0 :: assembleWords n []
  | n + 1, i :: is => encode i :: assembleWords n is

theorem length_assembleWords : ∀ (n : Nat) (is : Program), (assembleWords n is).length = n
  | 0, _ => rfl
  | n + 1, [] => congrArg (· + 1) (length_assembleWords n [])
  | n + 1, _ :: is => congrArg (· + 1) (length_assembleWords n is)

/-- The program store that holds a program from index 0 on, unprogrammed beyond it (R96, R98). -/
def assemble (is : Program) : ProgramStore := ⟨⟨assembleWords 32 is⟩, length_assembleWords 32 is⟩

/-- The operations up to and with the first HALT, if every word up to it is legal. -/
def programPart : List Byte → Option Program
  | [] => none
  | w :: ws =>
    match decode w with
    | .ok .halt => some [.halt]
    | .ok i => (programPart ws).map (i :: ·)
    | .error _ => none

/-- R100 on the words of a store: every word before the first HALT is legal, and there is a HALT. -/
def storeWellFormed (prog : ProgramStore) : Bool := (programPart prog.toList).isSome

/-- The instruction the decoder reads from an instruction whose bits are `w`: one op word, one byte (R90). -/
def decodeTableWord (nbits w : Nat) : Option Instr :=
  match decode (BitVec.ofNat 8 (w % 2 ^ nbits)) with
  | .ok i => some i
  | .error _ => none

end Sys2Proof
end

