-- ==== Sys2Proof/Machine/Constants.lean ====
section
/-! DEFINITION. The constant tables of spec/10_state.md R44 and the canonical program of spec/30_encoding.md R101. They are
not state and never change (R44, R252). -/

namespace Sys2Proof.Machine

open Sys2Proof

/-- One line of the table of R112, put in front of the lines after it. -/
def krLine (k0 k1 k2 k3 : Word) (rest : List Word) : List Word := k0 :: k1 :: k2 :: k3 :: rest

/-- `KR[0..79]`, the round constants of R112: the rule's twenty lines of four words, `KR[0]` first. -/
def roundConstants : List Word :=
  krLine 0x428a2f98d728ae22 0x7137449123ef65cd 0xb5c0fbcfec4d3b2f 0xe9b5dba58189dbbc <|
  krLine 0x3956c25bf348b538 0x59f111f1b605d019 0x923f82a4af194f9b 0xab1c5ed5da6d8118 <|
  krLine 0xd807aa98a3030242 0x12835b0145706fbe 0x243185be4ee4b28c 0x550c7dc3d5ffb4e2 <|
  krLine 0x72be5d74f27b896f 0x80deb1fe3b1696b1 0x9bdc06a725c71235 0xc19bf174cf692694 <|
  krLine 0xe49b69c19ef14ad2 0xefbe4786384f25e3 0x0fc19dc68b8cd5b5 0x240ca1cc77ac9c65 <|
  krLine 0x2de92c6f592b0275 0x4a7484aa6ea6e483 0x5cb0a9dcbd41fbd4 0x76f988da831153b5 <|
  krLine 0x983e5152ee66dfab 0xa831c66d2db43210 0xb00327c898fb213f 0xbf597fc7beef0ee4 <|
  krLine 0xc6e00bf33da88fc2 0xd5a79147930aa725 0x06ca6351e003826f 0x142929670a0e6e70 <|
  krLine 0x27b70a8546d22ffc 0x2e1b21385c26c926 0x4d2c6dfc5ac42aed 0x53380d139d95b3df <|
  krLine 0x650a73548baf63de 0x766a0abb3c77b2a8 0x81c2c92e47edaee6 0x92722c851482353b <|
  krLine 0xa2bfe8a14cf10364 0xa81a664bbc423001 0xc24b8b70d0f89791 0xc76c51a30654be30 <|
  krLine 0xd192e819d6ef5218 0xd69906245565a910 0xf40e35855771202a 0x106aa07032bbd1b8 <|
  krLine 0x19a4c116b8d2d0c8 0x1e376c085141ab53 0x2748774cdf8eeb99 0x34b0bcb5e19b48a8 <|
  krLine 0x391c0cb3c5c95a63 0x4ed8aa4ae3418acb 0x5b9cca4f7763e373 0x682e6ff3d6b2b8a3 <|
  krLine 0x748f82ee5defb2fc 0x78a5636f43172f60 0x84c87814a1f0ab72 0x8cc702081a6439ec <|
  krLine 0x90befffa23631e28 0xa4506cebde82bde9 0xbef9a3f7b2c67915 0xc67178f2e372532b <|
  krLine 0xca273eceea26619c 0xd186b8c721c0c207 0xeada7dd6cde0eb1e 0xf57d4f7fee6ed178 <|
  krLine 0x06f067aa72176fba 0x0a637dc5a2c898a6 0x113f9804bef90dae 0x1b710b35131c471b <|
  krLine 0x28db77f523047d84 0x32caab7b40c72493 0x3c9ebe0a15c9bebc 0x431d67c49c100d4c <|
  krLine 0x4cc5d4becb3e42b6 0x597f299cfc657e2a 0x5fcb6fab3ad6faec 0x6c44198c4a475817 []

/-- `SEEDKEY`, the twelve ASCII bytes of "ed25519 seed" (R140). -/
def seedKey : List Byte := [0x65, 0x64, 0x32, 0x35, 0x35, 0x31, 0x39, 0x20, 0x73, 0x65, 0x65, 0x64]

/-- The pad byte of the inner pass, ipad = 0x36 repeated (R130). -/
def ipadByte : Byte := 0x36

/-- The pad byte of the outer pass, opad = 0x5c repeated (R130). -/
def opadByte : Byte := 0x5c

/-- The prime `P25519` of R170. -/
def P25519 : Nat := 2 ^ 255 - 19

/-- The curve coefficient `D25519` of R171. -/
def d25519Value : Nat := 0x52036cee2b6ffe738cc740797779e89800700a4d4141d8ab75eb4dca135978a3

/-- The x coordinate BX of the base point (R172). -/
def baseXValue : Nat := 0x216936d3cd6e53fec0a4e231fdd6dc5c692cc7609525a7b2c9562d608f25d51a

/-- The y coordinate BY of the base point (R172). -/
def baseYValue : Nat := 0x6666666666666666666666666666666666666666666666666666666666666658

/-- The prime order L of the base point (R172). -/
def groupOrder : Nat := 2 ^ 252 + 27742317777372353535851937790883648493

/-- ROM_CANON, the one program of the hardware instance (R101). -/
def romCanon : ProgramStore :=
  #v[0x10, 0x50, 0x60, 0x61, 0x62, 0x63, 0x70, 0x80, 0x90, 0xA0, 0x68, 0x69, 0x6A, 0x6B, 0x78, 0x88,
     0x98, 0xA8, 0xF0, 0x00, 0x00, 0x00, 0x00, 0x00, 0x00, 0x00, 0x00, 0x00, 0x00, 0x00, 0x00, 0x00]

end Sys2Proof.Machine
end

