-- ==== Sys2Proof/Machine/State.lean ====
section
/-! DEFINITION. The state of P2PK-CORE (spec/10_state.md R20 to R46) as plain data, and its value after reset (R45, R250).
A register that can hold the unwritten mark of R21 is an `Option`; `none` is the mark, a state of the register that the
spec names, and never stands for a missing reset value. -/

namespace Sys2Proof.Machine

open Sys2Proof

/-- The values of the register STATE (R37). -/
inductive RunState where
  /-- Code 0: armed or arming; the host may push frame bytes and START. -/
  | idle
  /-- Code 1: a run is in progress; the sequencer steps. -/
  | busy
  /-- Code 2: the run ended at HALT with both bindings made. -/
  | sat
  /-- Code 3: the run ended in a fault. -/
  | fail
deriving DecidableEq, Repr

/-- The six faults of P2PK-CORE (R220). Each is a defined step to STATE = FAIL, so none of them is a `Fault` of the model. -/
inductive FaultCode where
  /-- 1: the frame length is not 160, or a path index is 2^31 or more. -/
  | shape
  /-- 2: the computed public key differs from the supplied one. -/
  | unsat
  /-- 3: an illegal op word, or running past index 31. -/
  | illop
  /-- 4: a source register is unwritten, or a write-once destination is written. -/
  | seq
  /-- 5: a computed point fails the curve equation. -/
  | curve
  /-- 6: HALT without both bindings. -/
  | unbound
deriving DecidableEq, Repr

/-- The values of the register ERR (R38): NONE or a fault's code. The code 7 is never produced. -/
inductive ErrValue where
  | noFault
  | raised (code : FaultCode)
deriving DecidableEq, Repr

/-- The eight 64-bit words of `H[0..7]` (R31), and the eight working variables a to h of R118. -/
structure Words8 where
  w0 : Word
  w1 : Word
  w2 : Word
  w3 : Word
  w4 : Word
  w5 : Word
  w6 : Word
  w7 : Word
deriving DecidableEq, Repr

/-- KeyMaterial (R24, R25): a 32-byte private key and a 32-byte chain code. -/
structure KeyMaterial where
  key : Bytes 32
  cc : Bytes 32
deriving DecidableEq, Repr

/-- The HMAC message buffer `MBUF[0..63]` with its length `MLEN` in 0..64, written and unwritten together (R34). -/
structure MessageBuffer where
  bytes : Bytes 64
  mlen : Fin 65
deriving DecidableEq, Repr

/-- A field element: its architectural value is the integer in 0..P25519-1 (R173). -/
abbrev Felt := Fin P25519

/-- A CurvePoint: affine, fully reduced coordinates (R27). -/
structure Point where
  x : Felt
  y : Felt
deriving DecidableEq, Repr

/-- The derived registers of one lane p (R25 to R29). -/
structure LaneRegs where
  /-- `KM[p][1]` (R25). -/
  km1 : Option KeyMaterial
  /-- `KM[p][2]` (R25). -/
  km2 : Option KeyMaterial
  /-- `KM[p][3]` (R25). -/
  km3 : Option KeyMaterial
  /-- `KM[p][4]` (R25). -/
  km4 : Option KeyMaterial
  /-- `SC[p]`, the ClampedScalar (R26). -/
  sc : Option Scalar
  /-- `PT[p]`, the CurvePoint (R27). -/
  pt : Option Point
  /-- `ENC[p]`, the computed PublicKey (R28). -/
  enc : Option (Bytes 32)
  /-- `BOUND[p]`, one bit, never unwritten (R29). -/
  bound : Bool
deriving DecidableEq, Repr

/-- The bytes of the input frame that hold a value, as (index, byte) pairs with strictly rising indices. An index that is
not listed holds no value, the mark of R22. (DESIGN CHOICE, safe: notes/assumptions/5.md) -/
abbrev Memory := List Host.Cell

/-- An access of the host to the window (R69, R70, R75), at a byte offset from its base. (DESIGN CHOICE, safe:
notes/assumptions/13.md) -/
inductive HostAction where
  | write (offset : Nat) (value : Byte)
  | read (offset : Nat)
deriving DecidableEq, Repr

/-- Which agent acts in one step of the whole machine (R13, R78): a host access, the reset input (R250), or the sequencer. -/
inductive Turn where
  | host (a : HostAction)
  | resetInput
  | sequencer
deriving DecidableEq, Repr

/-- The state of P2PK-CORE (R20), with two fields of the model's own: the program store, a parameter of the step (R98), and
the turns of the agents that are still to come. (DESIGN CHOICE, safe:
notes/assumptions/2.md, notes/assumptions/3.md) -/
structure State where
  /-- `INBUF[0..159]` (R22). -/
  inbuf : Memory
  /-- `INCNT`, 0..161 (R22). -/
  incnt : Fin 162
  /-- `KM0`, the master KeyMaterial (R24). -/
  km0 : Option KeyMaterial
  /-- The derived registers of lane 1. -/
  lane1 : LaneRegs
  /-- The derived registers of lane 2. -/
  lane2 : LaneRegs
  /-- `H[0..7]`, the SHA-512 chaining state (R31). -/
  h : Option Words8
  /-- `BLK[0..127]` (R32). -/
  blk : Option (Bytes 128)
  /-- `K0[0..127]`, the normalised HMAC key (R33). -/
  k0 : Option (Bytes 128)
  /-- `MBUF` with `MLEN` (R34). -/
  mbuf : Option MessageBuffer
  /-- `IDIG[0..63]` (R35). -/
  idig : Option (Bytes 64)
  /-- `DIG[0..63]` (R35). -/
  dig : Option (Bytes 64)
  /-- `STATE` (R37). -/
  runState : RunState
  /-- `ERR` (R38). -/
  err : ErrValue
  /-- `UPC`, 5 bits (R36). -/
  upc : BitVec 5
  /-- The model's own: `PROG[0..31]`, the parameter of the step function (R20, R98). No step writes it. -/
  prog : ProgramStore
  /-- The model's own: the turns to come, in the total order of R78; when none is listed, it is the sequencer's turn. -/
  agenda : List Turn
deriving DecidableEq, Repr

/-- The reasons a step can stop the model with a fault: there are none. Every fault of the spec is a defined step to
STATE = FAIL (R238 (a)), and the spec leaves no state in which a step is undefined (R238 (c)), so no constructor is raised
by anyone; this is safe. (DEDUCED: notes/assumptions/6.md) -/
inductive Fault
deriving DecidableEq, Repr

/-- The reasons a step can be refused. -/
inductive Refusal where
  /-- Raised by an arm of `exec` for an operation without a meaning; no arm raises it (R238 (c)), and stopping is safe. -/
  | notModelled (mnemonic : String)
deriving DecidableEq, Repr

/-- The registers of one lane after reset (R45). -/
def LaneRegs.reset : LaneRegs :=
  { km1 := none, km2 := none, km3 := none, km4 := none, sc := none, pt := none, enc := none, bound := false }

/-- The machine right after reset (R45, R250): IDLE, no fault, UPC 0, an empty frame, both BOUND bits 0, everything else
unwritten; the program is the hardware instance's ROM_CANON (R98, R101), and no turn is planned. -/
def State.reset : State :=
  { inbuf := [], incnt := 0, km0 := none, lane1 := LaneRegs.reset, lane2 := LaneRegs.reset,
    h := none, blk := none, k0 := none, mbuf := none, idig := none, dig := none,
    runState := .idle, err := .noFault, upc := 0, prog := romCanon, agenda := [] }

end Sys2Proof.Machine
end

