-- ==== Sys2Proof/Machine/Ops.lean ====
section
/-! DEFINITION. The shared operations over the state: the input frame's memory, the register file by lane and level, the
marks `need` and `fresh` of R11, the advance of UPC (R36), the wipe (R46), taking a fault (R226) and the two exits from one
(R74, R250). -/

namespace Sys2Proof.Machine

open Sys2Proof

/-! ### The memory of the input frame (R22) -/

/-- The byte at an index, or the mark where the index holds no value (R22). -/
def Memory.read : Memory → Nat → Option Byte
  | [], _ => none
  | c :: m, a => if c.1 = a then some c.2 else Memory.read m a

/-- Write one byte, keeping the indices strictly rising. Every byte differs from the mark, so a write never removes an
entry. -/
def Memory.write : Memory → Nat → Byte → Memory
  | [], a, b => [(a, b)]
  | c :: m, a, b =>
    if a < c.1 then (a, b) :: c :: m
    else if a = c.1 then (a, b) :: m
    else c :: Memory.write m a b

/-- The bytes at `n` indices from `a` on, if every one of them holds a value. -/
def Memory.readRange (m : Memory) : Nat → Nat → Option (List Byte)
  | _, 0 => some []
  | a, n + 1 =>
    match Memory.read m a, Memory.readRange m (a + 1) n with
    | some b, some bs => some (b :: bs)
    | _, _ => none

/-- Every index of a memory is above `a`. -/
def Memory.above (a : Nat) : Memory → Bool
  | [] => true
  | c :: m => a < c.1 && Memory.above a m

/-- The canonical form: the indices rise strictly. (No entry can equal what an unlisted index reads as, the mark.) -/
def Memory.wf : Memory → Bool
  | [] => true
  | c :: m => Memory.above c.1 m && Memory.wf m

/-- Every listed index lies in the frame's space 0..159 (R22, R60). -/
def Memory.inFrame (m : Memory) : Bool := m.all (fun c => c.1 < 160)

/-! ### The register file by lane and level (R24 to R29, R92) -/

/-- The registers of lane p. -/
def State.lane (s : State) : Lane → LaneRegs
  | .one => s.lane1
  | .two => s.lane2

/-- Replace the registers of lane p. -/
def State.setLane (s : State) (p : Lane) (r : LaneRegs) : State :=
  match p with
  | .one => { s with lane1 := r }
  | .two => { s with lane2 := r }

/-- `KM[p][l]` for l in 1..4, held by the lane (R25); the argument is l - 1. -/
def LaneRegs.child (r : LaneRegs) : Level → Option KeyMaterial
  | 0 => r.km1
  | 1 => r.km2
  | 2 => r.km3
  | 3 => r.km4

/-- Write `KM[p][l]` for l in 1..4 (R25); the argument is l - 1. -/
def LaneRegs.setChild (r : LaneRegs) (l : Level) (k : KeyMaterial) : LaneRegs :=
  match l with
  | 0 => { r with km1 := some k }
  | 1 => { r with km2 := some k }
  | 2 => { r with km3 := some k }
  | 3 => { r with km4 := some k }

/-- The parent of CKD p,l: `KM[p][l]`, where `KM[p][0]` is an alias of `KM0` (R24, R152). -/
def State.parentKM (s : State) (p : Lane) : Level → Option KeyMaterial
  | 0 => s.km0
  | 1 => (s.lane p).km1
  | 2 => (s.lane p).km2
  | 3 => (s.lane p).km3

/-- The child of CKD p,l: `KM[p][l+1]` (R152). -/
def State.childKM (s : State) (p : Lane) (l : Level) : Option KeyMaterial := (s.lane p).child l

/-- Write `KM[p][l+1]` (R152). -/
def State.setChildKM (s : State) (p : Lane) (l : Level) (k : KeyMaterial) : State :=
  s.setLane p ((s.lane p).setChild l k)

/-- Write `SC[p]` (R26). -/
def State.setSC (s : State) (p : Lane) (v : Scalar) : State := s.setLane p { s.lane p with sc := some v }

/-- Write `PT[p]` (R27). -/
def State.setPT (s : State) (p : Lane) (v : Point) : State := s.setLane p { s.lane p with pt := some v }

/-- Write `ENC[p]` (R28). -/
def State.setENC (s : State) (p : Lane) (v : Bytes 32) : State := s.setLane p { s.lane p with enc := some v }

/-- `BOUND[p] <- 1` (R29). -/
def State.setBound (s : State) (p : Lane) : State := s.setLane p { s.lane p with bound := true }

/-! ### The marks (R11, R21, R30) -/

/-- `need(REG)` of R11: the register's value, or Fault(SEQ) where it is unwritten. -/
def need {α : Type} : Option α → Except FaultCode α
  | some v => .ok v
  | none => .error .seq

/-- `fresh(REG)` of R11: Fault(SEQ) where the register is written. -/
def fresh {α : Type} : Option α → Except FaultCode Unit
  | some _ => .error .seq
  | none => .ok ()

/-- The operation's own check: `raise Fault(code)` where the condition fails (R229). -/
def check (code : FaultCode) (condition : Bool) : Except FaultCode Unit :=
  if condition then .ok () else .error code

/-! ### The wipe, taking a fault, and the exits from one -/

/-- A lane after the wipe: its derived registers are unwritten, its BOUND bit is unchanged (R46). -/
def LaneRegs.wiped (r : LaneRegs) : LaneRegs := { LaneRegs.reset with bound := r.bound }

/-- `Wipe()` of R46: every derived and unit register becomes unwritten; INBUF, INCNT, BOUND, UPC, STATE and ERR stay. -/
def State.wipe (s : State) : State :=
  { s with
    km0 := none, lane1 := s.lane1.wiped, lane2 := s.lane2.wiped,
    h := none, blk := none, k0 := none, mbuf := none, idig := none, dig := none }

/-- Fault entry, `raise Fault(code)` of R226: wipe, record the code, stop the run. UPC keeps the index of the operation that
raised it (R227); BOUND, INBUF and INCNT are unchanged. -/
def State.raiseFault (s : State) (code : FaultCode) : State :=
  { s.wipe with err := .raised code, runState := .fail }

/-- The effect of reset and of CLEAR (R45, R74, R250), the only exits from SAT and FAIL (R230). The program store is not
state (R250), and the agents' turns are outside the machine. -/
def State.resetRegisters (s : State) : State :=
  { State.reset with prog := s.prog, agenda := s.agenda }

/-! ### The end of an operation (R36) -/

/-- `upc <- upc + 1` of R36: an operation other than HALT that completes at UPC = 31 raises Fault(ILLOP), with its own
writes made (R223). -/
def State.advance (s : State) : State :=
  if s.upc = 31 then s.raiseFault .illop else { s with upc := s.upc + 1 }

/-- The end of an operation begun in `s`: it completed in the given state and UPC advances, or it raised a fault and wrote
none of its destination registers (R36, R226). -/
def complete (s : State) : Except FaultCode State → Host.Outcome State Fault Refusal
  | .ok t => .next t.advance
  | .error code => .next (s.raiseFault code)

/-! ### The program store (R36, R98) -/

/-- `PROG[UPC]`, the fetched op word (R36). -/
def State.fetchWord (s : State) : Byte := s.prog[s.upc.toNat]

/-- Fetch and decode (R36); an illegal word is rejected by name. -/
def State.fetchOp (s : State) : Except IllegalWord Instr := decode s.fetchWord

/-- The program store with the word at UPC replaced: a program placed from outside the machine. -/
def State.placeWord (s : State) (w : Byte) : State := { s with prog := s.prog.set s.upc.toNat w }

end Sys2Proof.Machine
end

