-- ==== Sys2Proof/Machine/Operands.lean ====
section
/-! DEFINITION. The operand forms: the byte-order codecs (spec/20_memory.md R62 to R65) and the read-only views of the input
frame (spec/10_state.md R23). -/

namespace Sys2Proof.Machine

open Sys2Proof

/-! ### Byte strings of a fixed length -/

/-- A list cut or zero-filled to `n` bytes. The model applies it to lists of `n` bytes only. (DESIGN CHOICE,
safe: notes/assumptions/9.md) -/
def fitBytes : Nat → List Byte → List Byte
  | 0, _ => []
  | n + 1, [] => 0 :: fitBytes n []
  | n + 1, b :: bs => b :: fitBytes n bs

theorem length_fitBytes : ∀ (n : Nat) (l : List Byte), (fitBytes n l).length = n
  | 0, _ => rfl
  | n + 1, [] => congrArg (· + 1) (length_fitBytes n [])
  | n + 1, _ :: bs => congrArg (· + 1) (length_fitBytes n bs)

/-- The byte string of length `n` that a list of `n` bytes stands for. -/
def bytesOf (n : Nat) (l : List Byte) : Bytes n := ⟨⟨fitBytes n l⟩, length_fitBytes n l⟩

/-- `b^n` of R10: n copies of b. -/
def copies (n : Nat) (b : Byte) : List Byte := List.replicate n b

/-- The slice `s[a..b)` of R10. -/
def slice (l : List Byte) (a b : Nat) : List Byte := (l.take b).drop a

/-! ### BitCodec (R62) -/

/-- The eight bits of a byte, the most significant first (R62). -/
def byteBits (b : Byte) : List Bool :=
  [b.getLsbD 7, b.getLsbD 6, b.getLsbD 5, b.getLsbD 4, b.getLsbD 3, b.getLsbD 2, b.getLsbD 1, b.getLsbD 0]

/-- `Bits(s)` of R62: the bytes in order, within each byte the most significant bit first. -/
def bitsOfBytes : List Byte → List Bool
  | [] => []
  | b :: bs => byteBits b ++ bitsOfBytes bs

/-- The number whose binary digits are a list of bits, the most significant first. -/
def bitsValue (bs : List Bool) : Nat := bs.foldl (fun v b => 2 * v + b.toNat) 0

/-- `Bytes(v)` of R62, the inverse of `Bits`: defined only when the length is a multiple of 8. -/
def bytesOfBits : List Bool → Option (List Byte)
  | [] => some []
  | b7 :: b6 :: b5 :: b4 :: b3 :: b2 :: b1 :: b0 :: rest =>
    (bytesOfBits rest).map (BitVec.ofNat 8 (bitsValue [b7, b6, b5, b4, b3, b2, b1, b0]) :: ·)
  | _ => none

/-! ### Big-endian and little-endian integers (R63, R64) -/

/-- `BEn(s)` of R63: the sum of `s[j] * 2^(8*(n-1-j))`. -/
def beValue : List Byte → Nat
  | [] => 0
  | b :: bs => b.toNat * 2 ^ (8 * bs.length) + beValue bs

/-- The n-byte big-endian string of R63 (`Ser32`, `Ser64`, `Ser128`): `s[j] = (v >> (8*(n-1-j))) mod 256`. -/
def serBE : Nat → Nat → List Byte
  | 0, _ => []
  | n + 1, v => BitVec.ofNat 8 (v >>> (8 * n)) :: serBE n v

/-- `LE256(s)` of R64: the sum of `s[j] * 2^(8j)`. -/
def leValue : List Byte → Nat
  | [] => 0
  | b :: bs => b.toNat + 2 ^ 8 * leValue bs

/-- The n-byte little-endian string of R64 (`SerLE256`): `s[j] = (v >> (8j)) mod 256`. -/
def serLE : Nat → Nat → List Byte
  | 0, _ => []
  | n + 1, v => BitVec.ofNat 8 v :: serLE n (v >>> 8)

/-- `Ser32` of R63. -/
def ser32 (v : Nat) : List Byte := serBE 4 v

/-- `Ser64` of R63. -/
def ser64 (v : Word) : List Byte := serBE 8 v.toNat

/-- `Ser128` of R63. -/
def ser128 (v : Nat) : List Byte := serBE 16 v

/-- `SerH(H)` of R63: the eight words in order, each big-endian, 64 bytes. -/
def serH (h : Words8) : Bytes 64 :=
  bytesOf 64 (ser64 h.w0 ++ ser64 h.w1 ++ ser64 h.w2 ++ ser64 h.w3 ++ ser64 h.w4 ++ ser64 h.w5 ++ ser64 h.w6 ++ ser64 h.w7)

/-- `LE256` of R64. -/
def le256 (k : Bytes 32) : Nat := leValue k.toList

/-- `SerLE256` of R64. -/
def serLE256 (v : Nat) : Bytes 32 := bytesOf 32 (serLE 32 v)

/-! ### The views of the input frame (R23) -/

/-- `FrameValid` of R22. -/
def State.frameValid (s : State) : Bool := s.incnt = 160

/-- The frame bytes `INBUF[a .. a+n)`: unwritten when the frame is not valid (R23), and in a
valid frame that lacks one of them, which no run reaches. (DESIGN CHOICE, safe: notes/assumptions/5.md) -/
def State.frameBytes (s : State) (a n : Nat) : Option (List Byte) :=
  if s.frameValid then s.inbuf.readRange a n else none

/-- `PUBKEY[p]` (R23): `INBUF[0..32)` or `INBUF[32..64)`. -/
def State.pubkeyView (s : State) : Lane → Option (Bytes 32)
  | .one => (s.frameBytes 0 32).map (bytesOf 32)
  | .two => (s.frameBytes 32 32).map (bytesOf 32)

/-- The offset of `PATH[p][0]` in the frame (R23). -/
def pathBase : Lane → Nat
  | .one => 64
  | .two => 80

/-- `PATH[p][i]` (R23): BE32 of the four frame bytes at 64+4i or 80+4i. -/
def State.pathView (s : State) (p : Lane) (i : Level) : Option PathIndex :=
  (s.frameBytes (pathBase p + 4 * i.val) 4).map (fun bs => BitVec.ofNat 32 (beValue bs))

/-- `SEED` (R23): `INBUF[96..160)`. -/
def State.seedView (s : State) : Option (Bytes 64) := (s.frameBytes 96 64).map (bytesOf 64)

/-- HARDENED_OFFSET = 2^31 (R8). -/
def hardenedOffset : Nat := 2 ^ 31

/-- An index is admitted when it is below 2^31 (R151, R200, R221). -/
def indexAdmitted (i : PathIndex) : Bool := i.toNat < hardenedOffset

end Sys2Proof.Machine
end

