-- ==== Sys2Proof/Machine/Flags.lean ====
section
/-! DEFINITION. The codes of STATE and ERR and the host-visible values computed from them: STATUS, DONE, SAT, UPCR and INCNTR
(spec/10_state.md R37 to R42). The hardware has no arithmetic flags; BOUND is a register (R29). -/

namespace Sys2Proof.Machine

open Sys2Proof

/-- The 2-bit code of STATE (R37). -/
def RunState.code : RunState → BitVec 2
  | .idle => 0
  | .busy => 1
  | .sat => 2
  | .fail => 3

/-- The ERR value of a fault (R220). -/
def FaultCode.code : FaultCode → BitVec 3
  | .shape => 1
  | .unsat => 2
  | .illop => 3
  | .seq => 4
  | .curve => 5
  | .unbound => 6

/-- The 3-bit code of ERR (R38). -/
def ErrValue.code : ErrValue → BitVec 3
  | .noFault => 0
  | .raised c => c.code

/-- STATUS (R39): bits 1:0 STATE, bits 4:2 ERR, bits 7:5 zero; `(ERR << 2) OR STATE` (R72). -/
def State.statusByte (s : State) : Byte :=
  (s.err.code.setWidth 8 <<< 2) ||| s.runState.code.setWidth 8

/-- The output line DONE = STATE.bit(1) (R39). -/
def State.doneLine (s : State) : Bool := s.runState.code.getLsbD 1

/-- The output line SAT, 1 exactly in STATE = SAT (R39). -/
def State.satLine (s : State) : Bool := s.runState = .sat

/-- UPCR (R42): bits 4:0 UPC, bits 7:5 zero. -/
def State.upcrByte (s : State) : Byte := s.upc.setWidth 8

/-- INCNTR (R42): INCNT, 0..161. -/
def State.incntrByte (s : State) : Byte := BitVec.ofNat 8 s.incnt.val

end Sys2Proof.Machine
end

