-- ==== Sys2Proof/Machine/Sha512.lean ====
section
/-! DEFINITION. Sha512Core (spec/40_sha512.md): the compression function, padding, the whole hash, and the operations SHAI
and SHAB. -/

namespace Sys2Proof.Machine

open Sys2Proof

/-- `IV[0..7]`, the initial chaining value (R111). -/
def initialHash : Words8 :=
  { w0 := 0x6a09e667f3bcc908, w1 := 0xbb67ae8584caa73b, w2 := 0x3c6ef372fe94f82b, w3 := 0xa54ff53a5f1d36f1,
    w4 := 0x510e527fade682d1, w5 := 0x9b05688c2b3e6c1f, w6 := 0x1f83d9abfb41bd6b, w7 := 0x5be0cd19137e2179 }

/-- `ROTR64(x, n)` of R10, for 0 < n < 64. -/
def rotr64 (x : Word) (n : Nat) : Word := (x >>> n) ||| (x <<< (64 - n))

/-- `SHR64(x, n)` of R10. -/
def shr64 (x : Word) (n : Nat) : Word := x >>> n

/-- `Ch` of R116. -/
def ch (x y z : Word) : Word := (x &&& y) ^^^ (~~~x &&& z)

/-- Three words joined by XOR, the outer form of five of the functions of R116. -/
def xorOf3 (u v w : Word) : Word := u ^^^ v ^^^ w

/-- `Maj` of R116. -/
def maj (x y z : Word) : Word := xorOf3 (x &&& y) (x &&& z) (y &&& z)

/-- `BSIG0`, D00's Σ0 (R116). -/
def bigSigma0 (x : Word) : Word := xorOf3 (rotr64 x 28) (rotr64 x 34) (rotr64 x 39)

/-- `BSIG1`, D00's Σ1 (R116). -/
def bigSigma1 (x : Word) : Word := xorOf3 (rotr64 x 14) (rotr64 x 18) (rotr64 x 41)

/-- `SSIG0`, D00's σ0 (R116). -/
def smallSigma0 (x : Word) : Word := xorOf3 (rotr64 x 1) (rotr64 x 8) (shr64 x 7)

/-- `SSIG1`, D00's σ1 (R116). -/
def smallSigma1 (x : Word) : Word := xorOf3 (rotr64 x 19) (rotr64 x 61) (shr64 x 6)

/-- `BE64(B[8i .. 8i+8))` of R115: one message word. -/
def messageWord (block : Bytes 128) (i : Nat) : Word := BitVec.ofNat 64 (beValue (slice block.toList (8 * i) (8 * i + 8)))

/-- `M[0..15]` of R115. -/
def messageWords (block : Bytes 128) : List Word := (List.range 16).map (messageWord block)

/-- The next word of the schedule, from the words so far, the newest first (R117): W[t-2], W[t-7], W[t-15] and W[t-16] stand
at positions 1, 6, 14 and 15. -/
def nextScheduleWord (newestFirst : List Word) : Word :=
  smallSigma1 (newestFirst.getD 1 0) + newestFirst.getD 6 0 + smallSigma0 (newestFirst.getD 14 0) + newestFirst.getD 15 0

/-- Add `n` words to a schedule kept newest first (R117). -/
def extendSchedule : Nat → List Word → List Word
  | 0, ws => ws
  | n + 1, ws => extendSchedule n (nextScheduleWord ws :: ws)

/-- `W[0..79]` of R117. -/
def messageSchedule (block : Bytes 128) : List Word := (extendSchedule 64 (messageWords block).reverse).reverse

/-- Stage t of R118: the eight working variables, `KR[t]` and `W[t]` to the next eight. -/
def sha512Round (v : Words8) (k w : Word) : Words8 :=
  let t1 := v.w7 + bigSigma1 v.w4 + ch v.w4 v.w5 v.w6 + k + w
  let t2 := bigSigma0 v.w0 + maj v.w0 v.w1 v.w2
  { w0 := t1 + t2, w1 := v.w0, w2 := v.w1, w3 := v.w2, w4 := v.w3 + t1, w5 := v.w4, w6 := v.w5, w7 := v.w6 }

/-- The stages of R118 over the round constants and the schedule, in step. -/
def sha512Rounds : Words8 → List Word → List Word → Words8
  | v, k :: ks, w :: ws => sha512Rounds (sha512Round v k w) ks ws
  | v, _, _ => v

/-- Word-wise `+64`: the feed-forward of R118. -/
def addWords (u v : Words8) : Words8 :=
  { w0 := u.w0 + v.w0, w1 := u.w1 + v.w1, w2 := u.w2 + v.w2, w3 := u.w3 + v.w3,
    w4 := u.w4 + v.w4, w5 := u.w5 + v.w5, w6 := u.w6 + v.w6, w7 := u.w7 + v.w7 }

/-- `Compress(Hin, B)` of R118: 80 stages and the feed-forward. -/
def compress (hin : Words8) (block : Bytes 128) : Words8 :=
  addWords hin (sha512Rounds hin roundConstants (messageSchedule block))

/-- The number k of zero bytes in the padding of n message bytes (R120): (111 - n) mod 128. -/
def padZeros (n : Nat) : Nat := (111 + 127 * n) % 128

/-- `Pad(m)` of R120. -/
def pad (m : List Byte) : List Byte :=
  m ++ [0x80] ++ copies (padZeros m.length) 0 ++ ser128 (8 * m.length)

/-- The first `n` blocks of 128 bytes of a byte string (R121). -/
def blocksOf : Nat → List Byte → List (Bytes 128)
  | 0, _ => []
  | n + 1, l => bytesOf 128 (l.take 128) :: blocksOf n (l.drop 128)

/-- The chaining value of `SHA512(m)` after the last block (R121). -/
def sha512State (m : List Byte) : Words8 :=
  (blocksOf ((pad m).length / 128) (pad m)).foldl compress initialHash

/-- `SHA512(m)` of R121; the digest is `SerH(H)` (R119). -/
def sha512 (m : List Byte) : Bytes 64 := serH (sha512State m)

/-- SHAI (R113): `H <- IV`. -/
def execShai (s : State) : Host.Outcome State Fault Refusal :=
  complete s (.ok { s with h := some initialHash })

/-- SHAB (R114): compress one block, `H <- Compress(H, BLK)`. -/
def execShab (s : State) : Host.Outcome State Fault Refusal :=
  complete s do
    let hin ← need s.h
    let block ← need s.blk
    .ok { s with h := some (compress hin block) }

end Sys2Proof.Machine
end

