-- ==== Sys2Proof/Machine/Hmac.lean ====
section
/-! DEFINITION. HmacSha512 (spec/41_hmac.md): the function HMAC512, the register-level sequence shared by HMAC, MKD and CKD,
and the operation HMAC. -/

namespace Sys2Proof.Machine

open Sys2Proof

/-- `NormKey(k)` of R131: zero-padded to the block size if not longer, hashed and zero-padded if longer. -/
def normKey (k : List Byte) : List Byte :=
  if k.length ≤ 128 then k ++ copies (128 - k.length) 0 else (sha512 k).toList ++ copies 64 0

/-- A key block with every byte XORed with a pad byte (R130, R136). -/
def xorPad (padByte : Byte) (k : List Byte) : List Byte := k.map (· ^^^ padByte)

/-- The inner digest of R131. -/
def hmacInner (k m : List Byte) : Bytes 64 := sha512 (xorPad ipadByte (normKey k) ++ m)

/-- The eight words of the outer hash of R131. -/
def hmac512State (k m : List Byte) : Words8 :=
  sha512State (xorPad opadByte (normKey k) ++ (hmacInner k m).toList)

/-- `HMAC512(k, m)` of R131. -/
def hmac512 (k m : List Byte) : Bytes 64 := serH (hmac512State k m)

/-! ### The block layouts of R132 -/

/-- The message `MBUF[0..MLEN)` (R34). -/
def MessageBuffer.message (m : MessageBuffer) : List Byte := slice m.bytes.toList 0 m.mlen.val

/-- `IB0` and `OB0` of R132: the key block XORed with a pad byte. -/
def keyBlock (padByte : Byte) (k0 : Bytes 128) : Bytes 128 := bytesOf 128 (xorPad padByte k0.toList)

/-- `IB1` of R132: the message, 0x80, 111 - MLEN zero bytes, and the length of 128 + MLEN bytes in bits. -/
def innerBlock (m : MessageBuffer) : Bytes 128 :=
  bytesOf 128 (m.message ++ [0x80] ++ copies (111 - m.mlen.val) 0 ++ ser128 (8 * (128 + m.mlen.val)))

/-- `OB1` of R132: the inner digest, 0x80, 47 zero bytes, and the length 1536. -/
def outerBlock (idig : Bytes 64) : Bytes 128 :=
  bytesOf 128 (idig.toList ++ [0x80] ++ copies 47 0 ++ ser128 1536)

/-- One pass of R133: two blocks compressed from IV. -/
def hmacPass (first second : Bytes 128) : Words8 := compress (compress initialHash first) second

/-- The inner digest of R133 from the unit registers. -/
def innerDigest (k0 : Bytes 128) (m : MessageBuffer) : Bytes 64 := serH (hmacPass (keyBlock ipadByte k0) (innerBlock m))

/-- The eight words H after the outer pass of R133. -/
def outerHash (k0 : Bytes 128) (m : MessageBuffer) : Words8 :=
  hmacPass (keyBlock opadByte k0) (outerBlock (innerDigest k0 m))

/-- The digest DIG of R133 from the unit registers. -/
def hmacDigest (k0 : Bytes 128) (m : MessageBuffer) : Bytes 64 := serH (outerHash k0 m)

/-- `HmacSeq()` of R133: its end state of BLK, H, IDIG and DIG, with K0 and MBUF as they are. -/
def State.hmacSeq (s : State) (k0 : Bytes 128) (m : MessageBuffer) : State :=
  { s with
    blk := some (outerBlock (innerDigest k0 m)), h := some (outerHash k0 m),
    idig := some (innerDigest k0 m), dig := some (hmacDigest k0 m) }

/-- Fill K0 and MBUF and run the HMAC sequence (R141, R152). -/
def State.loadHmac (s : State) (k0 : Bytes 128) (m : MessageBuffer) : State :=
  State.hmacSeq { s with k0 := some k0, mbuf := some m } k0 m

/-- A key zero-padded to the block: `k ‖ 0x00^(128 - len(k))` (R33, R137). -/
def paddedKey (k : List Byte) : Bytes 128 := bytesOf 128 (k ++ copies (128 - k.length) 0)

/-- The split of a digest into key and chain code (R65, R141). -/
def splitDigest (d : Bytes 64) : KeyMaterial :=
  { key := bytesOf 32 (slice d.toList 0 32), cc := bytesOf 32 (slice d.toList 32 64) }

/-- HMAC (R134). -/
def execHmac (s : State) : Host.Outcome State Fault Refusal :=
  complete s do
    let k0 ← need s.k0
    let m ← need s.mbuf
    .ok (s.hmacSeq k0 m)

end Sys2Proof.Machine
end

