-- ==== Sys2Proof/Machine/MasterKey.lean ====
section
/-! DEFINITION. MasterKeyDerivation (spec/42_master_key.md): the function MasterKey and the operation MKD. -/

namespace Sys2Proof.Machine

open Sys2Proof

/-- `MasterKey(seed)` of R142. -/
def masterKey (seed : Bytes 64) : KeyMaterial := splitDigest (hmac512 seedKey seed.toList)

/-- The message buffer of MKD: `MBUF <- SEED ; MLEN <- 64` (R141). -/
def seedMessage (seed : Bytes 64) : MessageBuffer := { bytes := seed, mlen := 64 }

/-- MKD (R141). -/
def execMkd (s : State) : Host.Outcome State Fault Refusal :=
  complete s do
    let seed ← need s.seedView
    fresh s.km0
    .ok { s.loadHmac (paddedKey seedKey) (seedMessage seed) with
          km0 := some (splitDigest (hmacDigest (paddedKey seedKey) (seedMessage seed))) }

end Sys2Proof.Machine
end

