-- ==== Sys2Proof/Machine/Ckd.lean ====
section
/-! DEFINITION. CKDPriv (spec/43_ckdpriv.md): the hardened child-key derivation, its four-level chain, and the operation
CKD. -/

namespace Sys2Proof.Machine

open Sys2Proof

/-- `CkdData(k, i)` of R151: `0x00 ‖ k ‖ Ser32(i + 2^31)`, 37 bytes, for an index below 2^31. -/
def ckdData (k : Bytes 32) (i : PathIndex) : List Byte := [0x00] ++ k.toList ++ ser32 (i.toNat + hardenedOffset)

/-- `CkdPriv((k, c), i)` of R153, for an index below 2^31. -/
def ckdPriv (parent : KeyMaterial) (i : PathIndex) : KeyMaterial :=
  splitDigest (hmac512 parent.cc.toList (ckdData parent.key i))

/-- `Chain(m, path)` of R154: the four levels in order. -/
def chain (m : KeyMaterial) (path : Level → PathIndex) : KeyMaterial :=
  ckdPriv (ckdPriv (ckdPriv (ckdPriv m (path 0)) (path 1)) (path 2)) (path 3)

/-- The message buffer of CKD: CkdData, 27 zero bytes, MLEN = 37 (R152). -/
def ckdMessage (k : Bytes 32) (i : PathIndex) : MessageBuffer :=
  { bytes := bytesOf 64 (ckdData k i ++ copies 27 0), mlen := 37 }

/-- CKD p,l (R152): the SEQ checks first, then the index (R229). -/
def execCkd (p : Lane) (l : Level) (s : State) : Host.Outcome State Fault Refusal :=
  complete s do
    let parent ← need (s.parentKM p l)
    let i ← need (s.pathView p l)
    fresh (s.childKM p l)
    check .shape (indexAdmitted i)
    let k0 := paddedKey parent.cc.toList
    let m := ckdMessage parent.key i
    .ok ((s.loadHmac k0 m).setChildKM p l (splitDigest (hmacDigest k0 m)))

end Sys2Proof.Machine
end

