-- ==== Sys2Proof/Machine/ScalarClamp.lean ====
section
/-! DEFINITION. ScalarClamp (spec/44_scalar_clamp.md): the function Clamp and the operation CLAMP. -/

namespace Sys2Proof.Machine

open Sys2Proof

/-- The mask 2^256 - 1 - 7 - 2^255 of R160: every bit but 0, 1, 2 and 255. -/
def clampMask : Scalar := BitVec.ofNat 256 (2 ^ 256 - 1 - 7 - 2 ^ 255)

/-- `Clamp(k)` of R160. The key is clamped directly, with no hash before it (R162). -/
def clampScalar (k : Bytes 32) : Scalar :=
  (BitVec.ofNat 256 (le256 k) &&& clampMask) ||| BitVec.ofNat 256 (2 ^ 254)

/-- CLAMP p (R161): only the key half of `KM[p][4]` is used. -/
def execClamp (p : Lane) (s : State) : Host.Outcome State Fault Refusal :=
  complete s do
    let km4 ← need (s.lane p).km4
    fresh (s.lane p).sc
    .ok (s.setSC p (clampScalar km4.key))

end Sys2Proof.Machine
end

