-- ==== Sys2Proof/Machine/PointMultiply.lean ====
section
/-! DEFINITION. PointMultiply (spec/45_point_multiply.md): the field, the curve, its group law in affine and in extended
coordinates, scalar multiplication of the base point, and the operation PMUL. -/

namespace Sys2Proof.Machine

open Sys2Proof

/-! ### The field (R173, R174) -/

theorem P25519_pos : 0 < P25519 := by decide

/-- The canonical residue of a natural number (R173). -/
def felt (n : Nat) : Felt := ⟨n % P25519, Nat.mod_lt _ P25519_pos⟩

/-- `FAdd` of R174. -/
def fAdd (u v : Felt) : Felt := felt (u.val + v.val)

/-- `FSub` of R174: the non-negative residue. -/
def fSub (u v : Felt) : Felt := felt (u.val + (P25519 - v.val))

/-- `FMul` of R174. -/
def fMul (u v : Felt) : Felt := felt (u.val * v.val)

/-- `FNeg` of R174. -/
def fNeg (u : Felt) : Felt := fSub (felt 0) u

/-- `b ^ e mod P25519` for e < 2^n, by squaring, from the most significant of the n bits of e on. -/
def powMod (b : Nat) : Nat → Nat → Nat
  | 0, _ => 1
  | n + 1, e =>
    let r := powMod b n (e / 2)
    if e % 2 = 1 then r * r % P25519 * b % P25519 else r * r % P25519

/-- `FInv` of R174: u^(P25519-2) for u other than 0. FInv(0) is left undefined: a free value. (DESIGN CHOICE, safe:
notes/assumptions/1.md) -/
def fInv (u : Felt) : Felt := if u.val = 0 then felt Config.fInvZero else felt (powMod u.val 255 (P25519 - 2))

/-! ### The curve (R171, R172, R175 to R177) -/

/-- `D25519` of R171. -/
def curveD : Felt := felt d25519Value

/-- `BASE = (BX, BY)` of R172. -/
def basePoint : Point := { x := felt baseXValue, y := felt baseYValue }

/-- The identity `O = (0, 1)` of R177. -/
def identityPoint : Point := { x := felt 0, y := felt 1 }

/-- `OnCurve((x, y))` of R175; the coordinates are canonical by their type. -/
def onCurve (q : Point) : Bool :=
  fSub (fMul q.y q.y) (fMul q.x q.x) = fAdd (felt 1) (fMul curveD (fMul (fMul q.x q.x) (fMul q.y q.y)))

/-- The number t of R176. -/
def edT (q r : Point) : Felt := fMul (fMul (fMul (fMul curveD q.x) r.x) q.y) r.y

/-- `EdAdd(P, Q)` of R176. -/
def edAdd (q r : Point) : Point :=
  { x := fMul (fAdd (fMul q.x r.y) (fMul q.y r.x)) (fInv (fAdd (felt 1) (edT q r)))
    y := fMul (fAdd (fMul q.y r.y) (fMul q.x r.x)) (fInv (fSub (felt 1) (edT q r))) }

/-- The negative of a point (R177). -/
def edNeg (q : Point) : Point := { x := fNeg q.x, y := q.y }

/-- `[s]P` of R180: P added to itself s times. -/
def edMul : Nat → Point → Point
  | 0, _ => identityPoint
  | n + 1, q => edAdd (edMul n q) q

/-! ### Extended coordinates (R178, R179): hidden state of an implementation, never architectural -/

/-- A quadruple (X, Y, Z, T) of R178. -/
structure ExtPoint where
  x : Felt
  y : Felt
  z : Felt
  t : Felt
deriving DecidableEq, Repr

/-- The quadruple of R178 with Z = 1 that represents an affine point. -/
def toExt (q : Point) : ExtPoint := { x := q.x, y := q.y, z := felt 1, t := fMul q.x q.y }

/-- The affine point a quadruple represents (R178). -/
def toAffine (q : ExtPoint) : Point := { x := fMul q.x (fInv q.z), y := fMul q.y (fInv q.z) }

/-- The two conditions of R178 on a quadruple: `Z != 0` and `X * Y = Z * T`. -/
def extValid (q : ExtPoint) : Bool := q.z.val != 0 && fMul q.x q.y = fMul q.z q.t

/-- The projective curve check of R184: `(Y^2 - X^2) * Z^2 = Z^4 + D25519 * X^2 * Y^2` together with `X * Y = Z * T`. -/
def extOnCurve (q : ExtPoint) : Bool :=
  fMul (fSub (fMul q.y q.y) (fMul q.x q.x)) (fMul q.z q.z) =
      fAdd (fMul (fMul q.z q.z) (fMul q.z q.z)) (fMul curveD (fMul (fMul q.x q.x) (fMul q.y q.y)))
    && fMul q.x q.y = fMul q.z q.t

/-- `2 * D25519 mod P25519` of R178. -/
def curveTwoD : Felt := fMul (felt 2) curveD

/-- `ExtAdd` of R178. -/
def extAdd (q r : ExtPoint) : ExtPoint :=
  let a := fMul (fSub q.y q.x) (fSub r.y r.x)
  let b := fMul (fAdd q.y q.x) (fAdd r.y r.x)
  let c := fMul (fMul q.t curveTwoD) r.t
  let d := fMul (fMul q.z (felt 2)) r.z
  let e := fSub b a
  let f := fSub d c
  let g := fAdd d c
  let h := fAdd b a
  { x := fMul e f, y := fMul g h, z := fMul f g, t := fMul e h }

/-- `ExtDbl` of R179. -/
def extDbl (q : ExtPoint) : ExtPoint :=
  let a := fMul q.x q.x
  let b := fMul q.y q.y
  let c := fMul (fMul (felt 2) q.z) q.z
  let h := fAdd a b
  let e := fSub h (fMul (fAdd q.x q.y) (fAdd q.x q.y))
  let g := fSub a b
  let f := fAdd c g
  { x := fMul e f, y := fMul g h, z := fMul f g, t := fMul e h }

/-! ### Scalar multiplication (R181, R183, R184) -/

/-- The loop of R181 for the bits i - 1 down to 0 of the scalar. -/
def mulLoop (s : Scalar) : Nat → Point → Point
  | 0, q => q
  | i + 1, q => mulLoop s i (if s.getLsbD i then edAdd (edAdd q q) basePoint else edAdd q q)

/-- The point that PMUL computes from a scalar of 2^255 or more, for which R181 states none: a free value. (DESIGN CHOICE,
safe: notes/assumptions/8.md) -/
def freeMultiple (s : Scalar) : Point :=
  { x := felt (Config.mulBaseBeyond s.toNat).1, y := felt (Config.mulBaseBeyond s.toNat).2 }

/-- `ScalarMulBase(s)` of R181, defined there for scalars below 2^255. -/
def scalarMulBase (s : Scalar) : Point := if s.toNat < 2 ^ 255 then mulLoop s 255 identityPoint else freeMultiple s

/-- The same loop on extended coordinates (R181). -/
def extMulLoop (s : Scalar) : Nat → ExtPoint → ExtPoint
  | 0, q => q
  | i + 1, q => extMulLoop s i (if s.getLsbD i then extAdd (extDbl q) (toExt basePoint) else extDbl q)

/-- `ScalarMulBase(s)` for a scalar below 2^255, computed on extended coordinates and converted once at the end (R181). -/
def scalarMulBaseExt (s : Scalar) : Point := toAffine (extMulLoop s 255 (toExt identityPoint))

/-- The on-curve check on one computed point: Fault(CURVE) where it fails (R184, R225). -/
def checkPoint (q : Point) : Except FaultCode Point := if onCurve q then .ok q else .error .curve

/-- The loop of R181 with its assertions: every point a doubling or an addition gives, and the last one, is checked
(R184). (DEDUCED, safe: notes/assumptions/7.md) -/
def checkedMulLoop (s : Scalar) : Nat → Point → Except FaultCode Point
  | 0, q => checkPoint q
  | i + 1, q => do
    let d ← checkPoint (edAdd q q)
    let a ← if s.getLsbD i then checkPoint (edAdd d basePoint) else .ok d
    checkedMulLoop s i a

/-- The multiplication of PMUL: ScalarMulBase with its checks (R183). -/
def checkedMulBase (s : Scalar) : Except FaultCode Point :=
  if s.toNat < 2 ^ 255 then checkedMulLoop s 255 identityPoint else checkPoint (freeMultiple s)

/-- PMUL p (R183). -/
def execPmul (p : Lane) (s : State) : Host.Outcome State Fault Refusal :=
  complete s do
    let scalar ← need (s.lane p).sc
    fresh (s.lane p).pt
    let q ← checkedMulBase scalar
    .ok (s.setPT p q)

end Sys2Proof.Machine
end

