-- ==== Sys2Proof/Machine/PointEncode.lean ====
section
/-! DEFINITION. PointEncode (spec/46_point_encode.md): the function Encode and the operation PENC. -/

namespace Sys2Proof.Machine

open Sys2Proof

/-- `Encode((x, y))` of R190: y with its top bit set to the lowest bit of x, little-endian. -/
def encodePoint (q : Point) : Bytes 32 := serLE256 (q.y.val + 2 ^ 255 * (q.x.val % 2))

/-- PENC p (R191). -/
def execPenc (p : Lane) (s : State) : Host.Outcome State Fault Refusal :=
  complete s do
    let q ← need (s.lane p).pt
    fresh (s.lane p).enc
    .ok (s.setENC p (encodePoint q))

end Sys2Proof.Machine
end

