-- ==== Sys2Proof/Machine/TopLevel.lean ====
section
/-! DEFINITION. TwoKeysFromSameSeed (spec/47_top_level.md): the operations CHK, BIND and HALT, and the function Derive. -/

namespace Sys2Proof.Machine

open Sys2Proof

/-- `Derive(seed, path)` of R204. -/
def derive (seed : Bytes 64) (path : Level → PathIndex) : Bytes 32 :=
  encodePoint (scalarMulBase (clampScalar (chain (masterKey seed) path).key))

/-- `PATH[p][i]` is present and below 2^31 (R200). -/
def State.pathAdmitted (s : State) (p : Lane) (i : Level) : Bool :=
  match s.pathView p i with
  | some v => indexAdmitted v
  | none => false

/-- All four indices of lane p are admitted (R200). -/
def State.pathsAdmitted (s : State) (p : Lane) : Bool :=
  s.pathAdmitted p 0 && s.pathAdmitted p 1 && s.pathAdmitted p 2 && s.pathAdmitted p 3

/-- CHK (R200): Fault(SHAPE) for a frame that is not 160 bytes or for an index at or above 2^31; it writes nothing. -/
def execChk (s : State) : Host.Outcome State Fault Refusal :=
  complete s do
    check .shape s.frameValid
    check .shape (s.pathsAdmitted .one && s.pathsAdmitted .two)
    .ok s

/-- BIND p (R201): all 256 bits of the computed key against the supplied one. -/
def execBind (p : Lane) (s : State) : Host.Outcome State Fault Refusal :=
  complete s do
    let enc ← need (s.lane p).enc
    let pubkey ← need (s.pubkeyView p)
    check .unsat (enc = pubkey)
    .ok (s.setBound p)

/-- HALT (R202): the verdict. UPC stays at the HALT. -/
def execHalt (s : State) : Host.Outcome State Fault Refusal :=
  if s.lane1.bound && s.lane2.bound then .next { s.wipe with runState := .sat }
  else .next (s.raiseFault .unbound)

end Sys2Proof.Machine
end

