-- ==== Sys2Proof/Machine/HostWindow.lean ====
section
/-! DEFINITION. The host's agent: the window of five byte registers (spec/20_memory.md R69 to R75) and the reset input (R250).
A program cannot reach the window (R60). -/

namespace Sys2Proof.Machine

open Sys2Proof

/-- The offset of `DIN` in the host window (R69). -/
def dinOffset : Nat := 0

/-- The offset of `CTRL` in the host window (R69). -/
def ctrlOffset : Nat := 1

/-- The offset of `STATUS` in the host window (R69). -/
def statusOffset : Nat := 2

/-- The offset of `UPCR` in the host window (R69). -/
def upcrOffset : Nat := 3

/-- The offset of `INCNTR` in the host window (R69). -/
def incntrOffset : Nat := 4

/-- `HostWrite(DIN, b)` of R71: push one frame byte in IDLE; dropped past the 160th, ignored outside IDLE. -/
def State.pushByte (s : State) (b : Byte) : State :=
  if s.runState = .idle then
    if s.incnt.val < 160 then
      { s with inbuf := Memory.write s.inbuf s.incnt.val b, incnt := Fin.ofNat 162 (s.incnt.val + 1) }
    else { s with incnt := 161 }
  else s

/-- START (R73): effective only in IDLE; it does not check the frame. -/
def State.start (s : State) : State :=
  if s.runState = .idle then { s with runState := .busy, upc := 0 } else s

/-- CLEAR (R74): in any state, every register takes its reset value. -/
def State.clear (s : State) : State := s.resetRegisters

/-- `HostWrite(CTRL, v)` (R40, R73, R74): 0x01 is START, 0x02 is CLEAR, every other value is ignored (R75). -/
def State.command (s : State) (v : Byte) : State :=
  if v = 0x01 then s.start else if v = 0x02 then s.clear else s

/-- A host write at an offset of the window (R69); writes to the read-only registers and above 0x4 are ignored (R75). -/
def hostWrite (offset : Nat) (b : Byte) (s : State) : State :=
  if offset = dinOffset then s.pushByte b else if offset = ctrlOffset then s.command b else s

/-- What a host read at an offset of the window returns (R39 to R42, R72, R75). -/
def hostRead (offset : Nat) (s : State) : Byte :=
  if offset = statusOffset then s.statusByte
  else if offset = upcrOffset then s.upcrByte
  else if offset = incntrOffset then s.incntrByte
  else 0x00

/-- The effect of a host access on the state (R70): a read changes nothing (R72). -/
def hostAct (a : HostAction) (s : State) : State :=
  match a with
  | .write offset b => hostWrite offset b s
  | .read _ => s

/-- The reset input (R250): the same effect as CLEAR. -/
def resetInput (s : State) : State := s.resetRegisters

end Sys2Proof.Machine
end

