-- ==== Sys2Proof/Machine/Dispatch.lean ====
section
/-! DEFINITION. The dispatch of an operation to its meaning (spec/10_state.md R36: execute op). -/

namespace Sys2Proof.Machine

open Sys2Proof

/-- The effect of one operation, begun at UPC with STATE = BUSY: its rule, then the advance of UPC or the fault entry. -/
def exec (i : Instr) (s : State) : Host.Outcome State Fault Refusal :=
  match i with
  | .chk => Sys2Proof.Machine.execChk s
  | .shai => Sys2Proof.Machine.execShai s
  | .shab => Sys2Proof.Machine.execShab s
  | .hmac => Sys2Proof.Machine.execHmac s
  | .mkd => Sys2Proof.Machine.execMkd s
  | .ckd p l => Sys2Proof.Machine.execCkd p l s
  | .clamp p => Sys2Proof.Machine.execClamp p s
  | .pmul p => Sys2Proof.Machine.execPmul p s
  | .penc p => Sys2Proof.Machine.execPenc p s
  | .bind p => Sys2Proof.Machine.execBind p s
  | .halt => Sys2Proof.Machine.execHalt s

end Sys2Proof.Machine
end

