-- ==== Sys2Proof/Machine/Step.lean ====
section
/-! DEFINITION. One step of the whole machine: one turn of one agent (spec/00_scope.md R13, spec/10_state.md R36,
spec/20_memory.md R78). -/

namespace Sys2Proof.Machine

open Sys2Proof

/-- The sequencer's turn (R36): enabled only while STATE = BUSY; an illegal word raises Fault(ILLOP) before any register is
read (R95, R223). In IDLE, SAT and FAIL the sequencer does not step (R238 (b)). (DESIGN CHOICE, safe: notes/assumptions/4.md) -/
def sequencerTurn (s : State) : Host.Outcome State Fault Refusal :=
  match s.runState with
  | .busy =>
    match s.fetchOp with
    | .ok i => exec i s
    | .error _ => .next (s.raiseFault .illop)
  | .idle | .sat | .fail => .next s

/-- One step: the next turn of the agenda, or the sequencer's turn where none is listed (R78). -/
def step (s : State) : Host.Outcome State Fault Refusal :=
  match s.agenda with
  | [] => sequencerTurn s
  | .sequencer :: rest => sequencerTurn { s with agenda := rest }
  | .host a :: rest => .next (hostAct a { s with agenda := rest })
  | .resetInput :: rest => .next (resetInput { s with agenda := rest })

/-- The state with an instruction placed where the next step fetches: its op word at `PROG[UPC]`, the run started
(STATE = BUSY), and the sequencer's turn next. (DESIGN CHOICE, safe: notes/assumptions/2.md) -/
def State.withFetchWord (s : State) (nbits w : Nat) : State :=
  { s.placeWord (BitVec.ofNat 8 (w % 2 ^ nbits)) with runState := .busy, agenda := [] }

end Sys2Proof.Machine
end

