-- ==== Sys2Proof/Safety.lean ====
section
/-! DEFINITION. What the claims speak of: the invariants of the spec's prose (spec/10_state.md R22, R26, R27, R29, R37, R38,
R45, R46; spec/47_top_level.md R206), the SEQ checks of spec/60_exceptions.md R224 as one table, and the verdict of
spec/47_top_level.md R205. -/

namespace Sys2Proof.Machine

open Sys2Proof

/-! ### Unwritten registers (R21, R46) -/

/-- Every derived register of the lane is unwritten. -/
def LaneRegs.unwritten (r : LaneRegs) : Bool :=
  r.km1.isNone && r.km2.isNone && r.km3.isNone && r.km4.isNone && r.sc.isNone && r.pt.isNone && r.enc.isNone

/-- Every register of the list of R46 is unwritten. -/
def State.unwritten (s : State) : Bool :=
  s.km0.isNone && s.lane1.unwritten && s.lane2.unwritten && s.h.isNone && s.blk.isNone && s.k0.isNone &&
    s.mbuf.isNone && s.idig.isNone && s.dig.isNone

/-! ### Invariants -/

/-- The frame holds exactly the bytes below INCNT, in canonical form and inside its space (R22). -/
structure FrameInv (s : State) : Prop where
  canonical : Memory.wf s.inbuf = true
  inSpace : Memory.inFrame s.inbuf = true
  filled : ∀ a, (Memory.read s.inbuf a).isSome = true ↔ a < s.incnt.val ∧ a < 160

/-- The control registers agree with each other and with the marks (R29, R37, R38, R45, R46, R202). -/
structure ControlInv (s : State) : Prop where
  /-- ERR is non-zero exactly when STATE = FAIL (R38). -/
  errExactlyInFail : s.err = .noFault ↔ s.runState ≠ .fail
  /-- Outside a run every derived and unit register is unwritten (R45, R46). -/
  quiescentUnwritten : s.runState ≠ .busy → s.unwritten = true
  /-- IDLE is entered only with UPC 0 and both BOUND bits 0 (R29, R45). -/
  idleCleared : s.runState = .idle → s.upc = 0 ∧ s.lane1.bound = false ∧ s.lane2.bound = false
  /-- SAT is reached only with both BOUND bits 1 (R202). -/
  satBound : s.runState = .sat → s.lane1.bound = true ∧ s.lane2.bound = true

/-- A clamped scalar: bits 0, 1, 2 and 255 are 0, bit 254 is 1 (R26, R163). -/
def clamped (v : Scalar) : Bool :=
  !v.getLsbD 0 && !v.getLsbD 1 && !v.getLsbD 2 && v.getLsbD 254 && !v.getLsbD 255

/-- The invariants on written values: scalars are clamped (R26), points are on the curve (R27), and every ENC is the
encoding of such a point (R28, R193). -/
structure ValueInv (s : State) : Prop where
  scalar : ∀ p v, (s.lane p).sc = some v → clamped v = true
  point : ∀ p q, (s.lane p).pt = some q → onCurve q = true
  encoding : ∀ p e, (s.lane p).enc = some e → ∃ q, onCurve q = true ∧ e = encodePoint q

/-! ### Provenance (R206) -/

/-- The first `n` levels of the chain of R154. -/
def chainTo (m : KeyMaterial) (path : Level → PathIndex) : Nat → KeyMaterial
  | 0 => m
  | n + 1 => ckdPriv (chainTo m path n) (path (Fin.ofNat 4 n))

/-- The key material is that of level `n` of lane p, derived from the frame's seed and its first `n` indices, each of them
admitted. -/
def DerivedAt (s : State) (p : Lane) (n : Nat) (k : KeyMaterial) : Prop :=
  ∃ seed path, s.seedView = some seed ∧
    (∀ l : Level, l.val < n → s.pathView p l = some (path l) ∧ indexAdmitted (path l) = true) ∧
    k = chainTo (masterKey seed) path n

/-- The claim that SAT makes of lane p (R206): the frame is valid, its four indices are below 2^31, and the supplied public
key is the one derived from the seed along the path. -/
def Established (s : State) (p : Lane) : Prop :=
  ∃ seed path, s.seedView = some seed ∧
    (∀ l : Level, s.pathView p l = some (path l) ∧ indexAdmitted (path l) = true) ∧
    s.pubkeyView p = some (derive seed path)

/-- Where every written register comes from (the reason R206 gives). -/
structure Traced (s : State) : Prop where
  master : ∀ k, s.km0 = some k → ∃ seed, s.seedView = some seed ∧ k = masterKey seed
  child : ∀ p l k, s.childKM p l = some k → DerivedAt s p (l.val + 1) k
  scalar : ∀ p v, (s.lane p).sc = some v → ∃ k, DerivedAt s p 4 k ∧ v = clampScalar k.key
  point : ∀ p q, (s.lane p).pt = some q → ∃ k, DerivedAt s p 4 k ∧ q = scalarMulBase (clampScalar k.key)
  encoding : ∀ p e, (s.lane p).enc = some e →
    ∃ k, DerivedAt s p 4 k ∧ e = encodePoint (scalarMulBase (clampScalar k.key))
  bound : ∀ p, (s.lane p).bound = true → Established s p

/-- The invariant behind R206. -/
structure SoundInv (s : State) : Prop where
  control : ControlInv s
  traced : Traced s

/-! ### The checks of R224 -/

/-- The SEQ checks of each operation (R224) all pass. -/
def seqChecksPass (i : Instr) (s : State) : Bool :=
  match i with
  | .chk | .shai | .halt => true
  | .shab => s.h.isSome && s.blk.isSome
  | .hmac => s.k0.isSome && s.mbuf.isSome
  | .mkd => s.seedView.isSome && s.km0.isNone
  | .ckd p l => (s.parentKM p l).isSome && (s.pathView p l).isSome && (s.childKM p l).isNone
  | .clamp p => (s.lane p).km4.isSome && (s.lane p).sc.isNone
  | .pmul p => (s.lane p).sc.isSome && (s.lane p).pt.isNone
  | .penc p => (s.lane p).pt.isSome && (s.lane p).enc.isNone
  | .bind p => (s.lane p).enc.isSome && (s.pubkeyView p).isSome

/-- The lane operand of an operation, where it has one (R93). -/
def laneOf? : Instr → Option Lane
  | .ckd p _ | .clamp p | .pmul p | .penc p | .bind p => some p
  | .chk | .shai | .shab | .hmac | .mkd | .halt => none

/-! ### Runs -/

/-- It is the sequencer's turn, in a run, with no host action planned. -/
def State.running (s : State) : Bool := s.runState = .busy && s.agenda = []

/-- The state right after an effective START (R73, R254): a run at UPC 0 with no fault, every derived and unit register
unwritten and both BOUND bits 0; the frame and the program are arbitrary. -/
def State.started (s : State) : Bool :=
  s.running && s.err = .noFault && s.upc = 0 && s.unwritten && !s.lane1.bound && !s.lane2.bound

/-- The public key that the frame's seed and path p derive (R204); meaningful for a valid frame. -/
def State.derivedKey (s : State) (p : Lane) : Option (Bytes 32) :=
  match s.seedView, s.pathView p 0, s.pathView p 1, s.pathView p 2, s.pathView p 3 with
  | some seed, some i0, some i1, some i2, some i3 =>
    some (derive seed (fun l => if l = 0 then i0 else if l = 1 then i1 else if l = 2 then i2 else i3))
  | _, _, _, _, _ => none

/-- How a run ends: STATE, ERR and UPC. -/
structure Verdict where
  runState : RunState
  err : ErrValue
  upc : BitVec 5
deriving DecidableEq, Repr

/-- The verdict of ROM_CANON on the frame, the first condition of the table of R205 that applies. -/
def State.romVerdict (s : State) : Verdict :=
  if s.incnt ≠ 160 then ⟨.fail, .raised .shape, 0⟩
  else if !(s.pathsAdmitted .one && s.pathsAdmitted .two) then ⟨.fail, .raised .shape, 0⟩
  else if s.derivedKey .one ≠ s.pubkeyView .one then ⟨.fail, .raised .unsat, 9⟩
  else if s.derivedKey .two ≠ s.pubkeyView .two then ⟨.fail, .raised .unsat, 17⟩
  else ⟨.sat, .noFault, 18⟩

/-- The verdict a state shows. -/
def State.verdict (s : State) : Verdict := ⟨s.runState, s.err, s.upc⟩

end Sys2Proof.Machine
end

