-- ==== Sys2Proof/Certificates/Slice0/Obligations.lean ====
section
/-! DEFINITION. The statements about P2PK-CORE, for the provers. Each docstring names the rule of spec/ it formalises, or says
that the statement is an inference and from which sentence. A statement that an operation completes has a conclusion
`exec i s = .next t` with `t` written out, so it says the operation's result, its frame and the advance of UPC at once. -/

open Sys2Proof Sys2Proof.Machine

/-! ### Decoding and the step -/

/-- R93: the opcode map. The rows are those of the table; a word matches a row when its masked bits equal the row's value, no word matches two rows, a word that
matches no row is illegal, and exactly these 22 words are legal. -/
def Obligations.DecodeFollowsTheOpcodeMap : Prop :=
  opcodeRows.map (fun r => (r.mnemonic, r.value, r.mask)) =
    [("CHK", 0x10, 0xFF), ("SHAI", 0x20, 0xFF), ("SHAB", 0x30, 0xFF), ("HMAC", 0x40, 0xFF), ("MKD", 0x50, 0xFF),
     ("CKD", 0x60, 0xF4), ("CLAMP", 0x70, 0xF7), ("PMUL", 0x80, 0xF7), ("PENC", 0x90, 0xF7), ("BIND", 0xA0, 0xF7),
     ("HALT", 0xF0, 0xFF)] ∧
  (∀ w : Byte, (opcodeRows.filter (·.accepts w)).length ≤ 1) ∧
  (∀ (w : Byte) (r : OpcodeRow), r ∈ opcodeRows → w &&& r.mask = r.value → decode w = .ok (r.operation w)) ∧
  (∀ w : Byte, (∀ r ∈ opcodeRows, w &&& r.mask ≠ r.value) → ∃ e, decode w = .error e) ∧
  ((List.range 256).filter (fun n => (decode (BitVec.ofNat 8 n)).isOk)).length = 22 ∧
  decode 0x10 = .ok .chk ∧ decode 0x20 = .ok .shai ∧ decode 0x30 = .ok .shab ∧ decode 0x40 = .ok .hmac ∧
  decode 0x50 = .ok .mkd ∧
  decode 0x60 = .ok (.ckd .one 0) ∧ decode 0x61 = .ok (.ckd .one 1) ∧ decode 0x62 = .ok (.ckd .one 2) ∧
  decode 0x63 = .ok (.ckd .one 3) ∧ decode 0x68 = .ok (.ckd .two 0) ∧ decode 0x69 = .ok (.ckd .two 1) ∧
  decode 0x6A = .ok (.ckd .two 2) ∧ decode 0x6B = .ok (.ckd .two 3) ∧
  decode 0x70 = .ok (.clamp .one) ∧ decode 0x78 = .ok (.clamp .two) ∧
  decode 0x80 = .ok (.pmul .one) ∧ decode 0x88 = .ok (.pmul .two) ∧
  decode 0x90 = .ok (.penc .one) ∧ decode 0x98 = .ok (.penc .two) ∧
  decode 0xA0 = .ok (.bind .one) ∧ decode 0xA8 = .ok (.bind .two) ∧ decode 0xF0 = .ok .halt

/-- Decoding and encoding agree in both directions (R93 with the encodings of the operation rules). -/
def Obligations.DecodeInvertsEncode : Prop :=
  (∀ i : Instr, decode (encode i) = .ok i) ∧ ∀ (w : Byte) (i : Instr), decode w = .ok i → encode i = w

/-- R95: which words are illegal, and that fetching one in a run raises Fault(ILLOP) before anything else is done, whether the
sequencer's turn is listed or no turn is (the list of turns is the model's choice, notes/assumptions/3.md). -/
def Obligations.IllegalWordsRaiseIllop : Prop :=
  (∀ w : Byte, (∃ e, decode w = .error e) ↔
    (w >>> 4).toNat ∈ [0x0, 0xB, 0xC, 0xD, 0xE] ∨
    w.getLsbD 2 = true ∨
    ((w >>> 4).toNat ∈ [0x1, 0x2, 0x3, 0x4, 0x5, 0xF] ∧ w &&& 0x0F ≠ 0) ∨
    ((w >>> 4).toNat ∈ [0x7, 0x8, 0x9, 0xA] ∧ w &&& 0x07 ≠ 0)) ∧
  (∀ (s : State) (e : IllegalWord), s.runState = .busy → s.agenda = [] → s.fetchOp = .error e →
    step s = .next (s.raiseFault .illop)) ∧
  ∀ (s : State) (e : IllegalWord) (rest : List Turn), s.runState = .busy → s.agenda = .sequencer :: rest →
    s.fetchOp = .error e → step s = .next (State.raiseFault { s with agenda := rest } .illop)

/-- R36: in a run, when it is the sequencer's turn, the step fetches `PROG[UPC]`, decodes it and executes the operation; outside
a run the sequencer does not step (the idle turn is the model's choice, notes/assumptions/4.md). R70, R72, R250: a listed turn of
the host or of the reset input takes its effect, which leaves the program and the turns to come as they are (the list of turns is
the model's choice, notes/assumptions/3.md). -/
def Obligations.StepRunsTheDecodedOperation : Prop :=
  (∀ (s : State) (i : Instr), s.runState = .busy → s.agenda = [] → decode (s.prog[s.upc.toNat]) = .ok i →
    step s = exec i s) ∧
  (∀ (s : State) (i : Instr) (rest : List Turn), s.runState = .busy → s.agenda = .sequencer :: rest →
    decode (s.prog[s.upc.toNat]) = .ok i → step s = exec i { s with agenda := rest }) ∧
  (∀ s : State, s.runState ≠ .busy → s.agenda = [] → step s = .next s) ∧
  (∀ (s : State) (rest : List Turn), s.runState ≠ .busy → s.agenda = .sequencer :: rest →
    step s = .next { s with agenda := rest }) ∧
  (∀ (s : State) (o : Nat) (b : Byte) (rest : List Turn), s.agenda = .host (.write o b) :: rest →
    step s = .next (hostWrite o b { s with agenda := rest })) ∧
  (∀ (s : State) (o : Nat) (rest : List Turn), s.agenda = .host (.read o) :: rest →
    step s = .next { s with agenda := rest }) ∧
  (∀ (s : State) (rest : List Turn), s.agenda = .resetInput :: rest →
    step s = .next (resetInput { s with agenda := rest })) ∧
  (∀ (s : State) (o : Nat) (b : Byte), (hostWrite o b s).agenda = s.agenda ∧ (hostWrite o b s).prog = s.prog) ∧
  ∀ s : State, (resetInput s).agenda = s.agenda ∧ (resetInput s).prog = s.prog

/-- R238 (c): no operation is refused and none is stuck; every operation answers a next state in every state. That a step answers one
in IDLE, SAT and FAIL too, where R238 (b) says the sequencer has none, is the model's choice (notes/assumptions/4.md). -/
def Obligations.EveryStepAnswersANextState : Prop :=
  (∀ (i : Instr) (s : State), ∃ t, exec i s = .next t) ∧ ∀ s : State, ∃ t, step s = .next t

/-! ### The operations -/

/-- R113, SHAI: the chaining state becomes IV, whatever it was; nothing else but UPC changes. -/
def Obligations.ShaiInitialisesTheChainingState : Prop :=
  decode 0x20 = .ok .shai ∧
  ∀ s : State, s.upc ≠ 31 → exec .shai s = .next { s with h := some initialHash, upc := s.upc + 1 }

/-- R114, SHAB: one compression of BLK into H; BLK is not consumed; an unwritten H or BLK raises Fault(SEQ). R118: the compression is
80 stages, stage t with `KR[t]` and `W[t]`, from the eight words it is given, and then their word-wise addition to the result. -/
def Obligations.ShabCompressesTheBlock : Prop :=
  roundConstants.length = 80 ∧
  (∀ (hin : Words8) (b : Bytes 128), ∃ v : Nat → Words8, v 0 = hin ∧
    (∀ t, t < 80 → v (t + 1) =
      let t1 := (v t).w7 + bigSigma1 (v t).w4 + ch (v t).w4 (v t).w5 (v t).w6 + roundConstants.getD t 0 +
        (messageSchedule b).getD t 0
      let t2 := bigSigma0 (v t).w0 + maj (v t).w0 (v t).w1 (v t).w2
      { w0 := t1 + t2, w1 := (v t).w0, w2 := (v t).w1, w3 := (v t).w2
        w4 := (v t).w3 + t1, w5 := (v t).w4, w6 := (v t).w5, w7 := (v t).w6 }) ∧
    compress hin b =
      { w0 := hin.w0 + (v 80).w0, w1 := hin.w1 + (v 80).w1, w2 := hin.w2 + (v 80).w2, w3 := hin.w3 + (v 80).w3
        w4 := hin.w4 + (v 80).w4, w5 := hin.w5 + (v 80).w5, w6 := hin.w6 + (v 80).w6, w7 := hin.w7 + (v 80).w7 }) ∧
  decode 0x30 = .ok .shab ∧
  (∀ (s : State) (hin : Words8) (b : Bytes 128), s.h = some hin → s.blk = some b → s.upc ≠ 31 →
    exec .shab s = .next { s with h := some (compress hin b), upc := s.upc + 1 }) ∧
  ∀ s : State, s.h = none ∨ s.blk = none → exec .shab s = .next (s.raiseFault .seq)

/-- R134, HMAC: IDIG and DIG are the inner and outer digests of HMAC-SHA512 of the message under the key in K0, H holds the
eight words of DIG, BLK the last outer block; K0 and MBUF are unchanged; an unwritten K0 or MBUF raises Fault(SEQ). -/
def Obligations.HmacComputesHmacSha512 : Prop :=
  decode 0x40 = .ok .hmac ∧
  (∀ (s : State) (k : Bytes 128) (m : MessageBuffer), s.k0 = some k → s.mbuf = some m → s.upc ≠ 31 →
    exec .hmac s = .next { s with
      idig := some (hmacInner k.toList m.message)
      dig := some (hmac512 k.toList m.message)
      h := some (hmac512State k.toList m.message)
      blk := some (outerBlock (hmacInner k.toList m.message))
      upc := s.upc + 1 }) ∧
  ∀ s : State, s.k0 = none ∨ s.mbuf = none → exec .hmac s = .next (s.raiseFault .seq)

/-- R141, MKD: the master key material is the split HMAC-SHA512 of the seed under "ed25519 seed", and the unit registers are
left as R144 says; an invalid frame or a written KM0 raises Fault(SEQ). -/
def Obligations.MkdDerivesTheMasterKey : Prop :=
  decode 0x50 = .ok .mkd ∧
  (∀ (s : State) (seed : Bytes 64), s.seedView = some seed → s.km0 = none → s.upc ≠ 31 →
    exec .mkd s = .next { s with
      km0 := some (masterKey seed)
      k0 := some (paddedKey seedKey)
      mbuf := some { bytes := seed, mlen := 64 }
      idig := some (hmacInner seedKey seed.toList)
      dig := some (hmac512 seedKey seed.toList)
      h := some (hmac512State seedKey seed.toList)
      blk := some (outerBlock (hmacInner seedKey seed.toList))
      upc := s.upc + 1 }) ∧
  ∀ s : State, s.seedView = none ∨ s.km0 ≠ none → exec .mkd s = .next (s.raiseFault .seq)

/-- R152, CKD p,l: the child is CkdPriv of the parent and the index, the unit registers are left as R157 says; the SEQ checks
come first, then an index of 2^31 or more raises Fault(SHAPE). -/
def Obligations.CkdDerivesTheChildKey : Prop :=
  (∀ (p : Lane) (l : Level),
    decode (0x60 ||| (BitVec.ofNat 8 (p.number - 1) <<< 3) ||| BitVec.ofNat 8 l.val) = .ok (.ckd p l)) ∧
  (∀ (s : State) (p : Lane) (l : Level) (parent : KeyMaterial) (i : PathIndex),
    s.parentKM p l = some parent → s.pathView p l = some i → s.childKM p l = none → i.toNat < 2 ^ 31 → s.upc ≠ 31 →
    exec (.ckd p l) s = .next { s.setChildKM p l (ckdPriv parent i) with
      k0 := some (paddedKey parent.cc.toList)
      mbuf := some { bytes := bytesOf 64 (ckdData parent.key i ++ copies 27 0), mlen := 37 }
      idig := some (hmacInner parent.cc.toList (ckdData parent.key i))
      dig := some (hmac512 parent.cc.toList (ckdData parent.key i))
      h := some (hmac512State parent.cc.toList (ckdData parent.key i))
      blk := some (outerBlock (hmacInner parent.cc.toList (ckdData parent.key i)))
      upc := s.upc + 1 }) ∧
  (∀ (s : State) (p : Lane) (l : Level), s.parentKM p l = none ∨ s.pathView p l = none ∨ s.childKM p l ≠ none →
    exec (.ckd p l) s = .next (s.raiseFault .seq)) ∧
  ∀ (s : State) (p : Lane) (l : Level) (parent : KeyMaterial) (i : PathIndex),
    s.parentKM p l = some parent → s.pathView p l = some i → s.childKM p l = none → 2 ^ 31 ≤ i.toNat →
    exec (.ckd p l) s = .next (s.raiseFault .shape)

/-- R161, CLAMP p: the clamped key half of KM[p][4]; an unwritten KM[p][4] or a written SC[p] raises Fault(SEQ). -/
def Obligations.ClampWritesTheClampedScalar : Prop :=
  (∀ p : Lane, decode (0x70 ||| (BitVec.ofNat 8 (p.number - 1) <<< 3)) = .ok (.clamp p)) ∧
  (∀ (s : State) (p : Lane) (k : KeyMaterial), (s.lane p).km4 = some k → (s.lane p).sc = none → s.upc ≠ 31 →
    exec (.clamp p) s =
      .next { s.setLane p { s.lane p with sc := some (clampScalar k.key) } with upc := s.upc + 1 }) ∧
  ∀ (s : State) (p : Lane), (s.lane p).km4 = none ∨ (s.lane p).sc ≠ none →
    exec (.clamp p) s = .next (s.raiseFault .seq)

/-- R183, PMUL p: PT[p] becomes ScalarMulBase of SC[p], for every scalar below 2^255 (where R181 defines it), so Fault(CURVE) is
not raised (R184); an unwritten SC[p] or a written PT[p] raises Fault(SEQ). That this point is [SC[p]]BASE is the statement
ScalarMulBaseIsTheMultipleOfBase. -/
def Obligations.PmulWritesTheMultipleOfBase : Prop :=
  (∀ p : Lane, decode (0x80 ||| (BitVec.ofNat 8 (p.number - 1) <<< 3)) = .ok (.pmul p)) ∧
  (∀ (s : State) (p : Lane) (v : Scalar), (s.lane p).sc = some v → v.toNat < 2 ^ 255 → (s.lane p).pt = none →
    s.upc ≠ 31 →
    exec (.pmul p) s =
      .next { s.setLane p { s.lane p with pt := some (scalarMulBase v) } with upc := s.upc + 1 }) ∧
  ∀ (s : State) (p : Lane), (s.lane p).sc = none ∨ (s.lane p).pt ≠ none →
    exec (.pmul p) s = .next (s.raiseFault .seq)

/-- PMUL p with a scalar of 2^255 or more, which no run reaches (R26) and for which R181 states no point: the model's choice is a
free value (notes/assumptions/8.md), and the on-curve check (R184) decides whether PMUL writes it or raises Fault(CURVE). -/
def Obligations.PmulChecksTheUnstatedMultiple : Prop :=
  ∀ (s : State) (p : Lane) (v : Scalar), (s.lane p).sc = some v → 2 ^ 255 ≤ v.toNat → (s.lane p).pt = none →
    s.upc ≠ 31 →
    exec (.pmul p) s =
      .next (if onCurve (scalarMulBase v) then
          { s.setLane p { s.lane p with pt := some (scalarMulBase v) } with upc := s.upc + 1 }
        else s.raiseFault .curve)

/-- R191, PENC p: ENC[p] becomes the encoding of PT[p]; an unwritten PT[p] or a written ENC[p] raises Fault(SEQ). -/
def Obligations.PencWritesTheEncoding : Prop :=
  (∀ p : Lane, decode (0x90 ||| (BitVec.ofNat 8 (p.number - 1) <<< 3)) = .ok (.penc p)) ∧
  (∀ (s : State) (p : Lane) (q : Point), (s.lane p).pt = some q → (s.lane p).enc = none → s.upc ≠ 31 →
    exec (.penc p) s =
      .next { s.setLane p { s.lane p with enc := some (encodePoint q) } with upc := s.upc + 1 }) ∧
  ∀ (s : State) (p : Lane), (s.lane p).pt = none ∨ (s.lane p).enc ≠ none →
    exec (.penc p) s = .next (s.raiseFault .seq)

/-- R201, BIND p: equal keys set BOUND[p], again or for the first time; keys that differ raise Fault(UNSAT); an unwritten ENC[p]
or an invalid frame raises Fault(SEQ). -/
def Obligations.BindComparesTheKeys : Prop :=
  (∀ p : Lane, decode (0xA0 ||| (BitVec.ofNat 8 (p.number - 1) <<< 3)) = .ok (.bind p)) ∧
  (∀ (s : State) (p : Lane) (e : Bytes 32), (s.lane p).enc = some e → s.pubkeyView p = some e → s.upc ≠ 31 →
    exec (.bind p) s = .next { s.setLane p { s.lane p with bound := true } with upc := s.upc + 1 }) ∧
  (∀ (s : State) (p : Lane) (e k : Bytes 32), (s.lane p).enc = some e → s.pubkeyView p = some k → e ≠ k →
    exec (.bind p) s = .next (s.raiseFault .unsat)) ∧
  ∀ (s : State) (p : Lane), (s.lane p).enc = none ∨ s.pubkeyView p = none →
    exec (.bind p) s = .next (s.raiseFault .seq)

/-- R200, CHK: a frame of 160 bytes whose eight indices are below 2^31 passes and nothing but UPC changes; any other frame raises
Fault(SHAPE). -/
def Obligations.ChkChecksTheInputShape : Prop :=
  decode 0x10 = .ok .chk ∧
  (∀ s : State, s.incnt = 160 → (∀ p i, ∃ v, s.pathView p i = some v ∧ v.toNat < 2 ^ 31) → s.upc ≠ 31 →
    exec .chk s = .next { s with upc := s.upc + 1 }) ∧
  (∀ s : State, s.incnt ≠ 160 → exec .chk s = .next (s.raiseFault .shape)) ∧
  ∀ (s : State) (p : Lane) (i : Level) (v : PathIndex), s.incnt = 160 → s.pathView p i = some v → 2 ^ 31 ≤ v.toNat →
    exec .chk s = .next (s.raiseFault .shape)

/-- R202, HALT: with both bindings made, the wipe and SAT, UPC staying at the HALT; otherwise Fault(UNBOUND). -/
def Obligations.HaltDeliversTheVerdict : Prop :=
  decode 0xF0 = .ok .halt ∧
  (∀ s : State, s.lane1.bound = true → s.lane2.bound = true →
    exec .halt s = .next { s.wipe with runState := .sat }) ∧
  ∀ s : State, s.lane1.bound = false ∨ s.lane2.bound = false → exec .halt s = .next (s.raiseFault .unbound)

/-! ### Faults -/

/-- R226: fault entry wipes the derived and unit registers, records the code, stops the run, and changes nothing else. (That a turn
of the stopped sequencer is a step that changes nothing is the model's choice, notes/assumptions/4.md.) -/
def Obligations.FaultEntryWipesAndStops : Prop :=
  ∀ (s : State) (c : FaultCode),
    (s.raiseFault c).unwritten = true ∧
    (s.raiseFault c).err = .raised c ∧ (s.raiseFault c).runState = .fail ∧
    (s.raiseFault c).doneLine = true ∧ (s.raiseFault c).satLine = false ∧
    (s.raiseFault c).upc = s.upc ∧
    (∀ p, ((s.raiseFault c).lane p).bound = (s.lane p).bound) ∧
    (s.raiseFault c).inbuf = s.inbuf ∧ (s.raiseFault c).incnt = s.incnt ∧
    (s.raiseFault c).prog = s.prog ∧ (s.raiseFault c).agenda = s.agenda ∧
    sequencerTurn (s.raiseFault c) = .next (s.raiseFault c)

/-- R224: the SEQ checks of every operation are complete. An operation one of whose checks fails raises Fault(SEQ), and an
operation whose checks all pass never does; every view of a frame that is not valid is unwritten. -/
def Obligations.SeqChecksAreComplete : Prop :=
  (∀ (i : Instr) (s : State), seqChecksPass i s = false → exec i s = .next (s.raiseFault .seq)) ∧
  (∀ (i : Instr) (s t : State), seqChecksPass i s = true → s.err ≠ .raised .seq → exec i s = .next t →
    t.err ≠ .raised .seq) ∧
  ∀ s : State, s.incnt ≠ 160 →
    s.seedView = none ∧ (∀ p, s.pubkeyView p = none) ∧ ∀ p l, s.pathView p l = none

/-- R223, R36: an operation that would complete at another index raises Fault(ILLOP) at UPC = 31, with its own writes made before
the wipe and UPC staying at 31. (No operation but HALT ends a completed operation otherwise, and HALT leaves STATE = BUSY.) -/
def Obligations.RunningOffTheEndRaisesIllop : Prop :=
  ∀ (i : Instr) (s t : State) (u : BitVec 5), s.runState = .busy → u ≠ 31 →
    exec i { s with upc := u } = .next t → t.runState = .busy →
    exec i { s with upc := 31 } = .next (State.raiseFault { t with upc := 31 } .illop)

/-- R231, R226, R227: what an operation that ends in FAIL leaves. Every derived and unit register is unwritten, a code is recorded,
UPC is the operation's index, the frame is untouched, and a BOUND bit changes only where BIND completed at index 31. -/
def Obligations.FaultingOperationLeavesOnlyTheFault : Prop :=
  ∀ (i : Instr) (s t : State), s.runState = .busy → exec i s = .next t → t.runState = .fail →
    t.unwritten = true ∧ (∃ c, t.err = .raised c) ∧ t.upc = s.upc ∧
    t.incnt = s.incnt ∧ (∀ a, Memory.read t.inbuf a = Memory.read s.inbuf a) ∧
    t.prog = s.prog ∧ t.agenda = s.agenda ∧
    ∀ p, (t.lane p).bound = (s.lane p).bound ∨ (i = .bind p ∧ s.upc = 31)

/-- R47: the access matrix as a frame. An operation that completes advances UPC by one and writes no register but those of its
row: no frame byte, no register of the other lane, and in its own lane only its destination. -/
def Obligations.CompletedOperationWritesOnlyItsRow : Prop :=
  ∀ (i : Instr) (s t : State), s.runState = .busy → exec i s = .next t → t.runState = .busy →
    i ≠ .halt ∧ s.upc ≠ 31 ∧ t.upc = s.upc + 1 ∧ t.err = s.err ∧
    t.incnt = s.incnt ∧ (∀ a, Memory.read t.inbuf a = Memory.read s.inbuf a) ∧
    t.prog = s.prog ∧ t.agenda = s.agenda ∧
    (i ≠ .mkd → t.km0 = s.km0) ∧
    (i ≠ .mkd → (∀ p l, i ≠ .ckd p l) → t.k0 = s.k0 ∧ t.mbuf = s.mbuf) ∧
    (i ≠ .hmac → i ≠ .mkd → (∀ p l, i ≠ .ckd p l) → t.blk = s.blk ∧ t.idig = s.idig ∧ t.dig = s.dig) ∧
    (i ≠ .shai → i ≠ .shab → i ≠ .hmac → i ≠ .mkd → (∀ p l, i ≠ .ckd p l) → t.h = s.h) ∧
    (∀ p, laneOf? i ≠ some p → t.lane p = s.lane p) ∧
    (∀ p l, i ≠ .ckd p l → t.childKM p l = s.childKM p l) ∧
    (∀ p, i ≠ .clamp p → (t.lane p).sc = (s.lane p).sc) ∧
    (∀ p, i ≠ .pmul p → (t.lane p).pt = (s.lane p).pt) ∧
    (∀ p, i ≠ .penc p → (t.lane p).enc = (s.lane p).enc) ∧
    ∀ p, i ≠ .bind p → (t.lane p).bound = (s.lane p).bound

/-- R30: the derived registers are write-once. While the run goes on a written one keeps its value, and an operation whose
destination is written raises Fault(SEQ); the SHA and HMAC unit registers may be overwritten. -/
def Obligations.DerivedRegistersAreWriteOnce : Prop :=
  (∀ (i : Instr) (s t : State), exec i s = .next t → t.runState = .busy →
    (s.km0 ≠ none → t.km0 = s.km0) ∧
    (∀ p l, s.childKM p l ≠ none → t.childKM p l = s.childKM p l) ∧
    (∀ p, (s.lane p).sc ≠ none → (t.lane p).sc = (s.lane p).sc) ∧
    (∀ p, (s.lane p).pt ≠ none → (t.lane p).pt = (s.lane p).pt) ∧
    ∀ p, (s.lane p).enc ≠ none → (t.lane p).enc = (s.lane p).enc) ∧
  (∀ s : State, s.km0 ≠ none → exec .mkd s = .next (s.raiseFault .seq)) ∧
  (∀ (s : State) (p : Lane) (l : Level), s.childKM p l ≠ none → exec (.ckd p l) s = .next (s.raiseFault .seq)) ∧
  (∀ (s : State) (p : Lane), (s.lane p).sc ≠ none → exec (.clamp p) s = .next (s.raiseFault .seq)) ∧
  (∀ (s : State) (p : Lane), (s.lane p).pt ≠ none → exec (.pmul p) s = .next (s.raiseFault .seq)) ∧
  (∀ (s : State) (p : Lane), (s.lane p).enc ≠ none → exec (.penc p) s = .next (s.raiseFault .seq)) ∧
  (∀ s : State, s.upc ≠ 31 → ∃ t, exec .shai s = .next t ∧ t.h = some initialHash ∧ t.upc = s.upc + 1) ∧
  ∀ (s : State) (k : Bytes 128) (m : MessageBuffer), s.k0 = some k → s.mbuf = some m → s.upc ≠ 31 →
    ∃ t, exec .hmac s = .next t ∧ t.idig = some (hmacInner k.toList m.message) ∧ t.dig = some (hmac512 k.toList m.message) ∧
      t.h = some (hmac512State k.toList m.message) ∧ t.blk = some (outerBlock (hmacInner k.toList m.message)) ∧
      t.upc = s.upc + 1

/-- R46: what the wipe sets, what it does not change, and that HALT and every fault entry perform it. -/
def Obligations.WipeClearsExactlyItsList : Prop :=
  ∀ s : State, s.wipe.unwritten = true ∧
    s.wipe.inbuf = s.inbuf ∧ s.wipe.incnt = s.incnt ∧ (∀ p, (s.wipe.lane p).bound = (s.lane p).bound) ∧
    s.wipe.upc = s.upc ∧ s.wipe.runState = s.runState ∧ s.wipe.err = s.err ∧
    s.wipe.prog = s.prog ∧ s.wipe.agenda = s.agenda ∧
    (∀ t, exec .halt s = .next t → t.unwritten = true) ∧
    ∀ c, s.raiseFault c = { s.wipe with err := .raised c, runState := .fail }

/-! ### Reset, the control registers and the host -/

/-- R45, R250: the values after reset, and identically after CLEAR and the reset input, which do not change the program. (That the
program right after reset is ROM_CANON is the model's choice of parameter, notes/assumptions/2.md, and no part of this.) -/
def Obligations.ResetAndClearGiveTheStatedValues : Prop :=
  (∀ s t : State, t = State.reset ∨ t = s.clear ∨ t = resetInput s →
    t.runState = .idle ∧ t.err = .noFault ∧ t.upc = 0 ∧ t.incnt = 0 ∧
    (∀ a, Memory.read t.inbuf a = none) ∧
    (∀ p, (t.lane p).bound = false) ∧ t.unwritten = true ∧
    t.statusByte = 0x00 ∧ t.doneLine = false ∧ t.satLine = false) ∧
  ∀ s : State, resetInput s = s.clear ∧ s.clear.prog = s.prog ∧ hostWrite 0x1 0x02 s = s.clear

/-- R37: the codes of STATE, and that it changes only by the listed transitions. -/
def Obligations.StateChangesOnlyByItsTransitions : Prop :=
  (RunState.idle.code = 0 ∧ RunState.busy.code = 1 ∧ RunState.sat.code = 2 ∧ RunState.fail.code = 3) ∧
  ∀ s t : State, step s = .next t → t.runState ≠ s.runState →
    (s.runState = .idle ∧ t.runState = .busy ∧ ∃ rest, s.agenda = .host (.write 0x1 0x01) :: rest) ∨
    (s.runState = .busy ∧ t.runState = .sat ∧ s.fetchOp = .ok .halt ∧ s.lane1.bound = true ∧ s.lane2.bound = true) ∨
    (s.runState = .busy ∧ t.runState = .fail ∧ ∃ c, t.err = .raised c) ∨
    (t.runState = .idle ∧ ∃ rest, s.agenda = .host (.write 0x1 0x02) :: rest ∨ s.agenda = .resetInput :: rest)

/-- R71: a write to DIN. In IDLE it stores the byte at INCNT and counts it, or, past the 160th byte, sets INCNT to 161; every other
index of the frame reads as before; outside IDLE it has no effect. -/
def Obligations.DinPushesOneByte : Prop :=
  (∀ (s : State) (b : Byte), s.runState = .idle → s.incnt.val < 160 →
    Memory.read (hostWrite 0x0 b s).inbuf s.incnt.val = some b ∧
    (∀ a, a ≠ s.incnt.val → Memory.read (hostWrite 0x0 b s).inbuf a = Memory.read s.inbuf a) ∧
    (hostWrite 0x0 b s).incnt.val = s.incnt.val + 1 ∧
    { hostWrite 0x0 b s with inbuf := s.inbuf, incnt := s.incnt } = s) ∧
  (∀ (s : State) (b : Byte), s.runState = .idle → 160 ≤ s.incnt.val → hostWrite 0x0 b s = { s with incnt := 161 }) ∧
  ∀ (s : State) (b : Byte), s.runState ≠ .idle → hostWrite 0x0 b s = s

/-- R73: START is effective only in IDLE, where it sets BUSY and UPC 0 and nothing else, whatever the frame holds. -/
def Obligations.StartBeginsARunOnlyInIdle : Prop :=
  (∀ s : State, s.runState = .idle → hostWrite 0x1 0x01 s = { s with runState := .busy, upc := 0 }) ∧
  ∀ s : State, s.runState ≠ .idle → hostWrite 0x1 0x01 s = s

/-- R75: the host accesses that do nothing, and what the reads among them return. -/
def Obligations.OtherHostAccessesDoNothing : Prop :=
  (∀ (s : State) (v : Byte), v ≠ 0x01 → v ≠ 0x02 → hostWrite 0x1 v s = s) ∧
  (∀ (s : State) (o : Nat) (v : Byte), 0x2 ≤ o → hostWrite o v s = s) ∧
  (∀ s : State, hostRead 0x0 s = 0x00 ∧ hostRead 0x1 s = 0x00) ∧
  (∀ (s : State) (o : Nat), 0x4 < o → hostRead o s = 0x00) ∧
  ∀ (s : State) (o : Nat), hostAct (.read o) s = s

/-- R72: what the host reads of STATUS, UPCR and INCNTR, and that reading changes nothing. -/
def Obligations.HostReadsReturnTheViews : Prop :=
  ∀ s : State,
    (hostRead 0x2 s).toNat = 4 * s.err.code.toNat + s.runState.code.toNat ∧
    (hostRead 0x3 s).toNat = s.upc.toNat ∧ (hostRead 0x4 s).toNat = s.incnt.val ∧
    hostAct (.read 0x2) s = s ∧ hostAct (.read 0x3) s = s ∧ hostAct (.read 0x4) s = s

/-- R39: the fields of STATUS, which a read returns with no side effect, and the two lines that mirror it. -/
def Obligations.StatusShowsStateAndErr : Prop :=
  ∀ s : State,
    hostRead 0x2 s = s.statusByte ∧ hostAct (.read 0x2) s = s ∧
    s.statusByte.extractLsb' 0 2 = s.runState.code ∧ s.statusByte.extractLsb' 2 3 = s.err.code ∧
    s.statusByte.extractLsb' 5 3 = 0 ∧
    s.doneLine = s.runState.code.getLsbD 1 ∧ (s.satLine = true ↔ s.runState = .sat) ∧
    (s.doneLine = true ↔ s.runState = .sat ∨ s.runState = .fail)

/-- From the sentence of R76 (e), an inference of the spec: outside IDLE no host access but CLEAR changes anything. -/
def Obligations.HostCannotDisturbARun : Prop :=
  ∀ (s : State) (a : HostAction), s.runState ≠ .idle → a ≠ .write 0x1 0x02 → hostAct a s = s

/-- R236 (a), R48: what the host can read is a function of STATE, ERR, UPC and INCNT, so no secret and no frame byte is readable. -/
def Obligations.HostReadsRevealNoSecret : Prop :=
  ∀ s t : State, s.runState = t.runState → s.err = t.err → s.upc = t.upc → s.incnt = t.incnt →
    (∀ o, hostRead o s = hostRead o t) ∧ s.doneLine = t.doneLine ∧ s.satLine = t.satLine

/-! ### Invariants -/

/-- The four invariants below hold right after reset (with the values of R45, which the spec gives). -/
def Obligations.InvariantsHoldAtReset : Prop :=
  FrameInv State.reset ∧ ControlInv State.reset ∧ ValueInv State.reset ∧ SoundInv State.reset

/-- R22: every step of the machine keeps the frame in canonical form, inside its 160 bytes, and filled exactly below INCNT. -/
def Obligations.EveryStepKeepsTheFrameInvariant : Prop :=
  ∀ s t : State, FrameInv s → step s = .next t → FrameInv t

/-- R29, R38, R45, R46, R202 as one invariant: every step keeps ERR non-zero exactly in FAIL, the derived and unit registers unwritten
outside a run, UPC and BOUND cleared in IDLE, and both BOUND bits set in SAT. -/
def Obligations.EveryStepKeepsTheControlInvariant : Prop :=
  ∀ s t : State, ControlInv s → step s = .next t → ControlInv t

/-- R26, R27, R193: every step keeps every scalar clamped, every point on the curve, and every ENC the encoding of a curve point. -/
def Obligations.EveryStepKeepsTheValueInvariant : Prop :=
  ∀ s t : State, ValueInv s → step s = .next t → ValueInv t

/-- The reason of R206 as an invariant: every step keeps every written register traced to the frame's seed and path. -/
def Obligations.EveryStepKeepsTheSoundnessInvariant : Prop :=
  ∀ s t : State, SoundInv s → step s = .next t → SoundInv t

/-- R206, an inference of the spec ("Soundness for every program"): for any program and any sequence of host accesses and steps from
reset, and from every other state that keeps the soundness invariant, SAT implies a valid frame, indices below 2^31, and both public
keys derived from the one seed. -/
def Obligations.SatMeansBothKeysAreDerived : Prop :=
  (∀ (prog : ProgramStore) (agenda : List Turn), SoundInv { State.reset with prog := prog, agenda := agenda }) ∧
  ∀ (s t : State) (n : Nat), SoundInv s → core.run n s = .next t → t.runState = .sat →
    Established t .one ∧ Established t .two

/-! ### Whole runs -/

/-- R265, an inference of the spec: a run ends within 32 turns of the sequencer, for any program. A run that ends earlier fills the
32 turns with idle ones, which change nothing (the model's choice, notes/assumptions/4.md). -/
def Obligations.EveryRunEndsWithin32Steps : Prop :=
  ∀ s : State, s.runState = .busy → s.agenda = [] →
    ∃ t : State, core.run 32 s = .next t ∧ t.runState ≠ .busy

/-- R205, an inference of the spec: the hardware instance's run ends, after at most 19 steps, in the state its table gives, with every
derived and unit register unwritten. The frame is arbitrary. A run that ends earlier fills the 19 turns with idle ones (the model's
choice, notes/assumptions/4.md); the UPC of the table is that of a single-lane machine (LANES = 1, notes/assumptions/10.md). -/
def Obligations.RomCanonGivesTheTabledVerdict : Prop :=
  ∀ s : State, s.started = true → s.prog = romCanon → FrameInv s →
    ∃ t : State, core.run 19 s = .next t ∧ t.verdict = s.romVerdict ∧ t.unwritten = true

/-- R260 (c), an inference of the spec: operations of different lanes, whichever comes first, may be exchanged without changing a
derived register. -/
def Obligations.LanesAreIndependent : Prop :=
  ∀ (i j : Instr) (p q : Lane) (s t1 t2 : State), laneOf? i = some p → laneOf? j = some q → p ≠ q →
    s.runState = .busy → exec i s = .next t1 → t1.runState = .busy → exec j t1 = .next t2 → t2.runState = .busy →
    ∃ u1 u2 : State, exec j s = .next u1 ∧ exec i u1 = .next u2 ∧ u2.runState = .busy ∧
      u2.km0 = t2.km0 ∧ u2.lane1 = t2.lane1 ∧ u2.lane2 = t2.lane2 ∧ u2.upc = t2.upc

/-- R97: the expansions of the pseudo-operations; PROVE is the program ROM_CANON (R101), which is well-formed (R100). -/
def Obligations.PseudoOperationsExpandAsTabled : Prop :=
  (∀ p, pseudoChain p = [.ckd p 0, .ckd p 1, .ckd p 2, .ckd p 3]) ∧
  (∀ p, pseudoPub p = [.clamp p, .pmul p, .penc p]) ∧
  (∀ p, pseudoLane p = pseudoChain p ++ pseudoPub p ++ [.bind p]) ∧
  pseudoProve = [.chk, .mkd] ++ pseudoLane .one ++ pseudoLane .two ++ [.halt] ∧
  assemble pseudoProve = romCanon ∧ Program.wellFormed pseudoProve = true ∧ storeWellFormed romCanon = true

/-! ### The codecs -/

/-- R62: Bytes is the inverse of Bits, in both directions, and is defined only when the length is a multiple of 8; element 8j + k of
`Bits(s)` is bit 7 - k of byte j. -/
def Obligations.BitCodecIsInvertible : Prop :=
  (∀ s : List Byte, bytesOfBits (bitsOfBytes s) = some s) ∧
  (∀ (v : List Bool) (s : List Byte), bytesOfBits v = some s → bitsOfBytes s = v) ∧
  (∀ v : List Bool, (bytesOfBits v).isSome = true ↔ v.length % 8 = 0) ∧
  ∀ (s : List Byte) (j k : Nat), j < s.length → k < 8 →
    (bitsOfBytes s)[8 * j + k]? = some ((s.getD j 0).getLsbD (7 - k))

/-- R63: the big-endian codecs, as a sum and as bytes, inverse to each other; the digest's bytes are those of H in order. -/
def Obligations.BigEndianCodecsAreInverse : Prop :=
  (∀ s : List Byte, beValue s = ∑ j ∈ Finset.range s.length, (s.getD j 0).toNat * 2 ^ (8 * (s.length - 1 - j))) ∧
  (∀ n v : Nat, v < 2 ^ (8 * n) → beValue (serBE n v) = v) ∧
  (∀ s : List Byte, beValue s < 2 ^ (8 * s.length) ∧ serBE s.length (beValue s) = s) ∧
  (∀ n v j : Nat, j < n → (serBE n v)[j]? = some (BitVec.ofNat 8 (v >>> (8 * (n - 1 - j))))) ∧
  ∀ h : Words8, (serH h).toList = ser64 h.w0 ++ ser64 h.w1 ++ ser64 h.w2 ++ ser64 h.w3 ++ ser64 h.w4 ++ ser64 h.w5 ++
    ser64 h.w6 ++ ser64 h.w7

/-- R64: the little-endian codecs, as a sum and as bytes, inverse to each other. -/
def Obligations.LittleEndianCodecsAreInverse : Prop :=
  (∀ s : List Byte, leValue s = ∑ j ∈ Finset.range s.length, (s.getD j 0).toNat * 2 ^ (8 * j)) ∧
  (∀ v : Nat, v < 2 ^ 256 → le256 (serLE256 v) = v) ∧
  (∀ k : Bytes 32, le256 k < 2 ^ 256 ∧ serLE256 (le256 k) = k) ∧
  ∀ v j : Nat, j < 32 → (serLE256 v).toList[j]? = some (BitVec.ofNat 8 (v >>> (8 * j)))

/-! ### SHA-512 and HMAC -/

/-- R117: the recurrence of the message schedule. -/
def Obligations.MessageScheduleFollowsTheRecurrence : Prop :=
  ∀ b : Bytes 128, (messageSchedule b).length = 80 ∧
    (∀ t, t < 16 → (messageSchedule b).getD t 0 = messageWord b t) ∧
    ∀ t, 16 ≤ t → t < 80 → (messageSchedule b).getD t 0 =
      smallSigma1 ((messageSchedule b).getD (t - 2) 0) + (messageSchedule b).getD (t - 7) 0 +
        smallSigma0 ((messageSchedule b).getD (t - 15) 0) + (messageSchedule b).getD (t - 16) 0

/-- R120: the padding, with the least number of zero bytes that reaches whole blocks. -/
def Obligations.PaddingReachesWholeBlocks : Prop :=
  ∀ m : List Byte, 8 * m.length < 2 ^ 128 →
    pad m = m ++ [0x80] ++ List.replicate (padZeros m.length) 0x00 ++ serBE 16 (8 * m.length) ∧
    (m.length + 1 + padZeros m.length + 16) % 128 = 0 ∧
    (∀ k, (m.length + 1 + k + 16) % 128 = 0 → padZeros m.length ≤ k) ∧
    (padZeros m.length : Int) = (111 - (m.length : Int)) % 128

/-- The end state of R133, an inference of the spec: the four-block register sequence computes HMAC-SHA512 of the message under the
key in K0, and a key of at most 128 bytes zero-padded into K0 (R137) gives HMAC512 of that key. -/
def Obligations.HmacSequenceEqualsHmacFunction : Prop :=
  (∀ (k : Bytes 128) (m : MessageBuffer),
    innerDigest k m = hmacInner k.toList m.message ∧ outerHash k m = hmac512State k.toList m.message ∧
    hmacDigest k m = hmac512 k.toList m.message) ∧
  ∀ (k : List Byte) (m : MessageBuffer), k.length ≤ 128 →
    hmacDigest (paddedKey k) m = hmac512 k m.message ∧ innerDigest (paddedKey k) m = hmacInner k m.message

/-! ### The scalar, the curve and the encoding -/

/-- R163, an inference of the spec: the clamped bits of every clamped scalar, its range, and that clamping is idempotent. -/
def Obligations.ClampedScalarsKeepTheInvariant : Prop :=
  ∀ k : Bytes 32, clamped (clampScalar k) = true ∧ (clampScalar k).toNat % 8 = 0 ∧
    2 ^ 254 ≤ (clampScalar k).toNat ∧ (clampScalar k).toNat < 2 ^ 255 ∧
    clampScalar (serLE256 (clampScalar k).toNat) = clampScalar k

/-- R160: Clamp as a mask on the little-endian integer, bit by bit, and byte-wise on the key. -/
def Obligations.ClampMasksTheLittleEndianKey : Prop :=
  ∀ k : Bytes 32,
    (clampScalar k).toNat = (le256 k &&& (2 ^ 256 - 1 - 7 - 2 ^ 255)) ||| 2 ^ 254 ∧
    clamped (clampScalar k) = true ∧
    (∀ i, 3 ≤ i → i ≤ 253 → (clampScalar k).getLsbD i = (le256 k).testBit i) ∧
    (clampScalar k).toNat = leValue ([k[0] &&& 0xF8] ++ slice k.toList 1 31 ++ [(k[31] &&& 0x7F) ||| 0x40])

/-- R174: the field operations are exact modulo P25519, and FInv gives the inverse of every element but 0, for which nothing is
said. -/
def Obligations.FieldOperationsAreExact : Prop :=
  ∀ u v : Felt,
    (fAdd u v).val = (u.val + v.val) % P25519 ∧
    ((fSub u v).val : Int) = ((u.val : Int) - (v.val : Int)) % (P25519 : Int) ∧
    (fMul u v).val = u.val * v.val % P25519 ∧
    fNeg u = fSub (felt 0) u ∧
    (u ≠ felt 0 → fMul u (fInv u) = felt 1 ∧ (fInv u).val = u.val ^ (P25519 - 2) % P25519 ∧
      ∀ w, fMul u w = felt 1 → w = fInv u)

/-- R176: the addition law of two points on the curve, its completeness, and that the result is on the curve. -/
def Obligations.EdwardsAdditionIsComplete : Prop :=
  ∀ q r : Point, onCurve q = true → onCurve r = true →
    edAdd q r =
      { x := fMul (fAdd (fMul q.x r.y) (fMul q.y r.x)) (fInv (fAdd (felt 1) (edT q r)))
        y := fMul (fAdd (fMul q.y r.y) (fMul q.x r.x)) (fInv (fSub (felt 1) (edT q r))) } ∧
    fAdd (felt 1) (edT q r) ≠ felt 0 ∧ fSub (felt 1) (edT q r) ≠ felt 0 ∧ onCurve (edAdd q r) = true

/-- Three of the four laws of R177: the identity, the negative, and commutativity (the fourth is EdwardsAdditionIsAssociative). -/
def Obligations.EdwardsIdentityNegativeAndCommutativity : Prop :=
  onCurve identityPoint = true ∧ onCurve basePoint = true ∧
  ∀ q r : Point, onCurve q = true → onCurve r = true →
    edAdd q identityPoint = q ∧ edAdd q (edNeg q) = identityPoint ∧ edAdd q r = edAdd r q

/-- R178, R179: ExtAdd and ExtDbl add and double represented points as EdAdd does, and give quadruples that represent points. -/
def Obligations.ExtendedFormulasRepresentTheGroupLaw : Prop :=
  (∀ q r : ExtPoint, extValid q = true → extValid r = true → onCurve (toAffine q) = true → onCurve (toAffine r) = true →
    extValid (extAdd q r) = true ∧ toAffine (extAdd q r) = edAdd (toAffine q) (toAffine r)) ∧
  (∀ q : ExtPoint, extValid q = true → onCurve (toAffine q) = true →
    extValid (extDbl q) = true ∧ toAffine (extDbl q) = edAdd (toAffine q) (toAffine q)) ∧
  (∀ q : ExtPoint, extValid q = true → (extOnCurve q = true ↔ onCurve (toAffine q) = true)) ∧
  ∀ q : Point, extValid (toExt q) = true ∧ toAffine (toExt q) = q

/-- From a sentence of R181: the loop on extended coordinates, converted once at the end, gives the point of the affine loop. -/
def Obligations.ExtendedLoopEqualsAffineLoop : Prop :=
  ∀ s : Scalar, s.toNat < 2 ^ 255 → scalarMulBaseExt s = scalarMulBase s

/-- R190: the encoding, as a little-endian number and byte-wise. -/
def Obligations.EncodingPacksTheSignBit : Prop :=
  ∀ q : Point,
    le256 (encodePoint q) = q.y.val + 2 ^ 255 * (q.x.val % 2) ∧
    (∀ j, j < 31 → (encodePoint q).toList[j]? = some (BitVec.ofNat 8 (q.y.val >>> (8 * j)))) ∧
    (encodePoint q).toList[31]? = some (BitVec.ofNat 8 ((q.y.val >>> 248) ||| ((q.x.val % 2) <<< 7)))

/-- R192, an inference of the spec: a supplied key whose low 255 bits are P25519 or more equals no encoding, so BIND raises
Fault(UNSAT). -/
def Obligations.NonCanonicalKeysNeverBind : Prop :=
  (∀ (q : Point) (k : Bytes 32), P25519 ≤ le256 k % 2 ^ 255 → encodePoint q ≠ k) ∧
  ∀ (s : State) (p : Lane) (k : Bytes 32), ValueInv s → (s.lane p).enc ≠ none → s.pubkeyView p = some k →
    P25519 ≤ le256 k % 2 ^ 255 → exec (.bind p) s = .next (s.raiseFault .unsat)

/-! ### The group law and the multiples of the base point -/

/-- The fourth law of R177: the addition of points on the curve is associative. -/
def Obligations.EdwardsAdditionIsAssociative : Prop :=
  ∀ q r t : Point, onCurve q = true → onCurve r = true → onCurve t = true →
    edAdd (edAdd q r) t = edAdd q (edAdd r t)

/-- The first sentence of R181, with [s]P as R180 defines it: ScalarMulBase(s) is BASE added to itself s times, for every s below
2^255. -/
def Obligations.ScalarMulBaseIsTheMultipleOfBase : Prop :=
  ∀ s : Scalar, s.toNat < 2 ^ 255 → scalarMulBase s = edMul s.toNat basePoint
end

