-- ==== Sys2Proof/Laws/Field.lean ====
section
/-! SUPPORT. The field of R170 to R174 for the provers: P25519 is prime (a chain of Pratt certificates), `powMod` is the power modulo
P25519, D25519 is no square, and every field operation is the operation of `ZMod P25519` on the values; and what the
multiplication of PMUL can give. -/

namespace Sys2Proof.Laws

open Sys2Proof Sys2Proof.Machine

/-! ### Powers -/

/-- `b ^ e mod m` for e < 2^n, by squaring. -/
def modPow (m b : ℕ) : ℕ → ℕ → ℕ
  | 0, _ => 1 % m
  | n + 1, e =>
    let r := modPow m b n (e / 2)
    if e % 2 = 1 then r * r % m * b % m else r * r % m

theorem modPow_eq (m b : ℕ) : ∀ n e, e < 2 ^ n → modPow m b n e = b ^ e % m
  | 0, e, h => by
    rw [Nat.pow_zero, Nat.lt_one_iff] at h
    simp [modPow, h]
  | n + 1, e, h => by
    have ih := modPow_eq m b n (e / 2) (by omega)
    have square : b ^ (e / 2) % m * (b ^ (e / 2) % m) % m = b ^ (2 * (e / 2)) % m := by
      rw [← Nat.mul_mod, two_mul, pow_add]
    simp only [modPow, ih, square]
    split
    · next hodd => rw [Nat.mod_mul_mod, ← pow_succ, show 2 * (e / 2) + 1 = e by omega]
    · next heven => rw [show 2 * (e / 2) = e by omega]

/-- The model's power is the power modulo P25519. -/
theorem powMod_eq (b n e : ℕ) (h : e < 2 ^ n) : powMod b n e = b ^ e % P25519 := by
  have same : ∀ n e, powMod b n e = modPow P25519 b n e := by
    intro n
    induction n with
    | zero => intro e; rfl
    | succ n ih => intro e; simp only [powMod, modPow, ih]
  rw [same, modPow_eq _ _ _ _ h]

/-! ### P25519 is prime -/

/-- Pratt's criterion: `fs` are the prime factors of p - 1 and `g` has order p - 1. -/
theorem prime_of_pratt (p g n : ℕ) (fs : List ℕ) (h1 : 1 < p) (hn : p ≤ 2 ^ n) (hprod : fs.prod = p - 1)
    (hprime : ∀ f ∈ fs, f.Prime) (hone : modPow p g n (p - 1) = 1) (hne : ∀ f ∈ fs, modPow p g n ((p - 1) / f) ≠ 1) :
    p.Prime := by
  have cast_eq : ∀ e, (g : ZMod p) ^ e = 1 ↔ g ^ e % p = 1 := fun e => by
    rw [← Nat.cast_pow, ← Nat.cast_one (R := ZMod p), ZMod.natCast_eq_natCast_iff', Nat.mod_eq_of_lt h1]
  have small : ∀ d, (p - 1) / d < 2 ^ n := fun d => by
    have := Nat.div_le_self (p - 1) d
    omega
  refine lucas_primality p (g : ZMod p) ((cast_eq _).mpr ?_) fun q hq hdvd => ?_
  · rw [← modPow_eq p g n _ (by omega), hone]
  · have hmem : q ∈ fs := by
      rw [← hprod] at hdvd
      obtain ⟨f, hf, hqf⟩ := (Prime.dvd_prod_iff hq.prime).mp hdvd
      rwa [(Nat.prime_dvd_prime_iff_eq hq (hprime f hf)).mp hqf]
    rw [Ne, cast_eq, ← modPow_eq p g n _ (small q)]
    exact hne q hmem

theorem prime_2773320623 : Nat.Prime 2773320623 :=
  prime_of_pratt _ 5 32 [2, 2437, 569003] (by decide) (by decide) (by decide)
    (by simp only [List.forall_mem_cons, List.not_mem_nil, false_imp_iff, implies_true, and_true]; norm_num)
    (by decide +kernel) (by decide +kernel)

theorem prime_72106336199 : Nat.Prime 72106336199 :=
  prime_of_pratt _ 7 37 [2, 13, 2773320623] (by decide) (by decide) (by decide)
    (by simp only [List.forall_mem_cons, List.not_mem_nil, false_imp_iff, implies_true, and_true, prime_2773320623]; norm_num)
    (by decide +kernel) (by decide +kernel)

theorem prime_1919519569386763 : Nat.Prime 1919519569386763 :=
  prime_of_pratt _ 2 51 [2, 3, 7, 19, 47, 47, 127, 8574133] (by decide) (by decide) (by decide)
    (by simp only [List.forall_mem_cons, List.not_mem_nil, false_imp_iff, implies_true, and_true]; norm_num)
    (by decide +kernel) (by decide +kernel)

theorem prime_31757755568855353 : Nat.Prime 31757755568855353 :=
  prime_of_pratt _ 10 55 [2, 2, 2, 3, 31, 107, 223, 4153, 430751] (by decide) (by decide) (by decide)
    (by simp only [List.forall_mem_cons, List.not_mem_nil, false_imp_iff, implies_true, and_true]; norm_num)
    (by decide +kernel) (by decide +kernel)

theorem prime_75445702479781427272750846543864801 : Nat.Prime 75445702479781427272750846543864801 :=
  prime_of_pratt _ 7 116 [2, 2, 2, 2, 2, 3, 3, 5, 5, 75707, 72106336199, 1919519569386763] (by decide) (by decide +kernel)
    (by decide +kernel)
    (by simp only [List.forall_mem_cons, List.not_mem_nil, false_imp_iff, implies_true, and_true, prime_72106336199,
          prime_1919519569386763]; norm_num)
    (by decide +kernel) (by decide +kernel)

theorem prime_large_factor :
    Nat.Prime 74058212732561358302231226437062788676166966415465897661863160754340907 :=
  prime_of_pratt _ 2 236 [2, 3, 353, 57467, 132049, 1923133, 31757755568855353, 75445702479781427272750846543864801]
    (by decide +kernel) (by decide +kernel) (by decide +kernel)
    (by simp only [List.forall_mem_cons, List.not_mem_nil, false_imp_iff, implies_true, and_true, prime_31757755568855353,
          prime_75445702479781427272750846543864801]; norm_num)
    (by decide +kernel) (by decide +kernel)

/-- The modulus of R170 is prime. -/
theorem prime_P25519 : Nat.Prime P25519 :=
  prime_of_pratt _ 2 255 [2, 2, 3, 65147, 74058212732561358302231226437062788676166966415465897661863160754340907]
    (by decide +kernel) (by decide +kernel) (by decide +kernel)
    (by simp only [List.forall_mem_cons, List.not_mem_nil, false_imp_iff, implies_true, and_true, prime_large_factor]; norm_num)
    (by decide +kernel) (by decide +kernel)

/-! ### The field operations in `ZMod P25519` -/

/-- The field of R173 as Mathlib's. -/
abbrev F := ZMod P25519

/-- The value of an element in that field. -/
def toF (u : Felt) : F := (u.val : F)

theorem toF_injective : Function.Injective toF := fun u v h => by
  have h' := (ZMod.natCast_eq_natCast_iff' _ _ _).mp h
  rwa [Nat.mod_eq_of_lt u.isLt, Nat.mod_eq_of_lt v.isLt, Fin.val_inj] at h'

theorem toF_felt (n : ℕ) : toF (felt n) = (n : F) := ZMod.natCast_mod n P25519

theorem toF_fAdd (u v : Felt) : toF (fAdd u v) = toF u + toF v := by
  rw [fAdd, toF_felt, Nat.cast_add]
  rfl

theorem toF_fMul (u v : Felt) : toF (fMul u v) = toF u * toF v := by
  rw [fMul, toF_felt, Nat.cast_mul]
  rfl

theorem toF_fSub (u v : Felt) : toF (fSub u v) = toF u - toF v := by
  rw [fSub, toF_felt, Nat.cast_add, Nat.cast_sub v.isLt.le, ZMod.natCast_self, zero_sub, ← sub_eq_add_neg]
  rfl

theorem toF_fNeg (u : Felt) : toF (fNeg u) = -toF u := by
  rw [fNeg, toF_fSub, toF_felt, Nat.cast_zero, zero_sub]

theorem toF_eq_zero {u : Felt} : toF u = 0 ↔ u = felt 0 := by
  rw [← toF_injective.eq_iff (a := u), toF_felt, Nat.cast_zero]

/-- D25519 is no square, by Euler's criterion. -/
theorem curveD_not_square : ¬ IsSquare (toF curveD) := by
  have : Fact (Nat.Prime P25519) := ⟨prime_P25519⟩
  have hd : toF curveD = (d25519Value : F) := toF_felt _
  have hne : toF curveD ≠ 0 := by
    rw [hd, Ne, ZMod.natCast_eq_zero_iff]
    decide +kernel
  rw [ZMod.euler_criterion P25519 hne, hd, ← Nat.cast_pow, ← Nat.cast_one (R := F), ZMod.natCast_eq_natCast_iff',
    ← modPow_eq P25519 d25519Value 255 _ (by decide +kernel)]
  decide +kernel

/-- A square root of -1, which the completeness of the addition law needs. -/
theorem isSquare_neg_one : IsSquare (-1 : F) := by
  have : Fact (Nat.Prime P25519) := ⟨prime_P25519⟩
  exact (ZMod.exists_sq_eq_neg_one_iff).mpr (by decide +kernel)

/-! ### The multiplication of PMUL (R181, R183, R184) -/

theorem scalarMulBase_of_lt {s : Scalar} (h : s.toNat < 2 ^ 255) : scalarMulBase s = mulLoop s 255 identityPoint :=
  if_pos h

theorem checkedMulBase_of_lt {s : Scalar} (h : s.toNat < 2 ^ 255) :
    checkedMulBase s = checkedMulLoop s 255 identityPoint :=
  if_pos h

theorem checkedMulBase_of_ge {s : Scalar} (h : 2 ^ 255 ≤ s.toNat) : checkedMulBase s = checkPoint (scalarMulBase s) := by
  rw [checkedMulBase, scalarMulBase, if_neg (Nat.not_lt.mpr h), if_neg (Nat.not_lt.mpr h)]

/-- A checked point is the point itself, on the curve, or Fault(CURVE). -/
theorem checkPoint_cases (q : Point) :
    (onCurve q = true ∧ checkPoint q = .ok q) ∨ (onCurve q = false ∧ checkPoint q = .error .curve) := by
  unfold checkPoint
  cases h : onCurve q <;> simp

theorem except_bind_eq_ok {ε α β : Type} {x : Except ε α} {f : α → Except ε β} {b : β} :
    (x >>= f) = .ok b ↔ ∃ a, x = .ok a ∧ f a = .ok b := by
  cases x <;> simp [bind, Except.bind]

theorem except_bind_eq_error {ε α β : Type} {x : Except ε α} {f : α → Except ε β} {b : ε} :
    (x >>= f) = .error b ↔ x = .error b ∨ ∃ a, x = .ok a ∧ f a = .error b := by
  cases x <;> simp [bind, Except.bind]

/-- What the checked loop answers is the point of the loop, and it is on the curve. -/
theorem checkedMulLoop_ok (s : Scalar) : ∀ (n : Nat) (q r : Point), checkedMulLoop s n q = .ok r →
    r = mulLoop s n q ∧ onCurve r = true := by
  have hc : ∀ q r, checkPoint q = .ok r → r = q ∧ onCurve r = true := by
    intro q r h
    rcases checkPoint_cases q with ⟨hq, h'⟩ | ⟨-, h'⟩ <;> rw [h'] at h <;> cases h
    exact ⟨rfl, hq⟩
  intro n
  induction n with
  | zero => exact hc
  | succ n ih =>
    intro q r h
    simp only [checkedMulLoop] at h
    obtain ⟨a, ha, h⟩ := except_bind_eq_ok.mp h
    obtain ⟨rfl, -⟩ := hc _ _ ha
    cases hb : s.getLsbD n
    · simp [hb] at h
      simpa [mulLoop, hb] using ih _ _ h
    · simp [hb] at h
      obtain ⟨b, hb', h⟩ := except_bind_eq_ok.mp h
      obtain ⟨rfl, -⟩ := hc _ _ hb'
      simpa [mulLoop, hb] using ih _ _ h

/-- The checked loop raises no fault but CURVE. -/
theorem checkedMulLoop_error (s : Scalar) : ∀ (n : Nat) (q : Point) (c : FaultCode), checkedMulLoop s n q = .error c →
    c = .curve := by
  have hc : ∀ q c, checkPoint q = .error c → c = .curve := by
    intro q c h
    rcases checkPoint_cases q with ⟨-, h'⟩ | ⟨-, h'⟩ <;> rw [h'] at h <;> cases h
    rfl
  intro n
  induction n with
  | zero => exact hc
  | succ n ih =>
    intro q c h
    simp only [checkedMulLoop] at h
    rcases except_bind_eq_error.mp h with h | ⟨a, -, h⟩
    · exact hc _ _ h
    · cases hb : s.getLsbD n
      · simp [hb] at h
        exact ih _ _ h
      · simp [hb] at h
        rcases except_bind_eq_error.mp h with h | ⟨b, -, h⟩
        · exact hc _ _ h
        · exact ih _ _ h

/-- Everything the multiplication of PMUL can give: ScalarMulBase of the scalar, on the curve, or Fault(CURVE). -/
theorem checkedMulBase_cases (s : Scalar) :
    (onCurve (scalarMulBase s) = true ∧ checkedMulBase s = .ok (scalarMulBase s)) ∨ checkedMulBase s = .error .curve := by
  rcases Nat.lt_or_ge s.toNat (2 ^ 255) with h | h
  · rw [checkedMulBase_of_lt h, scalarMulBase_of_lt h]
    generalize 255 = n
    cases h : checkedMulLoop s n identityPoint with
    | ok r =>
      obtain ⟨rfl, hr⟩ := checkedMulLoop_ok s n _ r h
      exact .inl ⟨hr, rfl⟩
    | error c => exact .inr (congrArg _ (checkedMulLoop_error s n _ c h))
  · rw [checkedMulBase_of_ge h]
    exact (checkPoint_cases _).imp id And.right

end Sys2Proof.Laws
end

