-- ==== Sys2Proof/Laws/Edwards.lean ====
section
/-! SUPPORT. The curve of R175 to R181 for the provers: the curve equation and the addition law in `ZMod P25519`, the identities
between numerators and denominators behind associativity (R177), and one equation per constructor for the loops. -/

namespace Sys2Proof.Laws

open Sys2Proof Sys2Proof.Machine

/-! ### Points and the curve equation in `ZMod P25519` -/

theorem toF_zero : toF (felt 0) = 0 := by rw [toF_felt, Nat.cast_zero]

theorem toF_one : toF (felt 1) = 1 := by rw [toF_felt, Nat.cast_one]

/-- `FInv` of R174 away from 0. -/
theorem toF_fInv {u : Felt} (h : u ≠ felt 0) : toF (fInv u) = (toF u)⁻¹ := by
  have : Fact (Nat.Prime P25519) := ⟨prime_P25519⟩
  have hu : u.val ≠ 0 := fun h0 => h (Fin.ext (by rw [h0]; rfl))
  have hf : toF u ≠ 0 := fun h0 => h (toF_eq_zero.mp h0)
  rw [fInv, if_neg hu, toF_felt, powMod_eq u.val 255 (P25519 - 2) (by decide +kernel), ZMod.natCast_mod, Nat.cast_pow]
  refine eq_inv_of_mul_eq_one_left ?_
  change toF u ^ (P25519 - 2) * toF u = 1
  rw [← pow_succ]
  exact ZMod.pow_card_sub_one_eq_one hf

/-- Two points are equal when their coordinates are, in the field. -/
theorem point_ext {q r : Point} (hx : toF q.x = toF r.x) (hy : toF q.y = toF r.y) : q = r := by
  cases q
  cases r
  rw [Point.mk.injEq]
  exact ⟨toF_injective hx, toF_injective hy⟩

/-- `OnCurve` of R175 as an equation of the field. -/
theorem onCurve_iff (q : Point) :
    onCurve q = true ↔ toF q.y ^ 2 - toF q.x ^ 2 = 1 + toF curveD * toF q.x ^ 2 * toF q.y ^ 2 := by
  rw [onCurve, decide_eq_true_iff, ← toF_injective.eq_iff]
  simp only [toF_fSub, toF_fAdd, toF_fMul, toF_one]
  constructor <;> intro h <;> linear_combination h

theorem toF_edT (q r : Point) : toF (edT q r) = toF curveD * toF q.x * toF r.x * toF q.y * toF r.y := by
  simp only [edT, toF_fMul]

/-- The first coordinate of `EdAdd` where its denominator is not 0. -/
theorem toF_edAdd_x {q r : Point} (h : 1 + toF (edT q r) ≠ 0) :
    toF (edAdd q r).x = (toF q.x * toF r.y + toF q.y * toF r.x) * (1 + toF (edT q r))⁻¹ := by
  have h' : fAdd (felt 1) (edT q r) ≠ felt 0 := fun h0 => h (by rw [← toF_one, ← toF_fAdd, h0, toF_zero])
  simp only [edAdd, toF_fMul, toF_fAdd, toF_fInv h', toF_one]

/-- The second coordinate of `EdAdd` where its denominator is not 0. -/
theorem toF_edAdd_y {q r : Point} (h : 1 - toF (edT q r) ≠ 0) :
    toF (edAdd q r).y = (toF q.y * toF r.y + toF q.x * toF r.x) * (1 - toF (edT q r))⁻¹ := by
  have h' : fSub (felt 1) (edT q r) ≠ felt 0 := fun h0 => h (by rw [← toF_one, ← toF_fSub, h0, toF_zero])
  simp only [edAdd, toF_fMul, toF_fAdd, toF_fSub, toF_fInv h', toF_one]

/-! ### The identities behind associativity -/

section Associativity

variable {K : Type} [CommRing K] (d x1 y1 x2 y2 x3 y3 : K)

/-- The first coordinates of (P + Q) + R and P + (Q + R), cleared of denominators. -/
theorem edwards_assoc_x (h1 : y1 ^ 2 - x1 ^ 2 = 1 + d * x1 ^ 2 * y1 ^ 2) (h2 : y2 ^ 2 - x2 ^ 2 = 1 + d * x2 ^ 2 * y2 ^ 2)
    (h3 : y3 ^ 2 - x3 ^ 2 = 1 + d * x3 ^ 2 * y3 ^ 2) :
    ((x1 * y2 + y1 * x2) * (1 - (d * x1 * x2 * y1 * y2)) * y3 + (y1 * y2 + x1 * x2) * (1 + (d * x1 * x2 * y1 * y2)) * x3) *
        (1 - (d * x2 * x3 * y2 * y3) ^ 2 + d * (x2 * y3 + y2 * x3) * (y2 * y3 + x2 * x3) * x1 * y1) =
      (x1 * (y2 * y3 + x2 * x3) * (1 + (d * x2 * x3 * y2 * y3)) + y1 * (x2 * y3 + y2 * x3) * (1 - (d * x2 * x3 * y2 * y3))) *
        (1 - (d * x1 * x2 * y1 * y2) ^ 2 + d * (x1 * y2 + y1 * x2) * (y1 * y2 + x1 * x2) * x3 * y3) := by
  linear_combination
      (-d ^ 2 * x1 * x2 ^ 4 * y2 ^ 3 * x3 ^ 2 * y3 - d ^ 2 * x1 * x2 ^ 3 * y2 ^ 4 * x3 * y3 ^ 2
        + d ^ 2 * y1 * x2 ^ 4 * y2 ^ 3 * x3 * y3 ^ 2 + d ^ 2 * y1 * x2 ^ 3 * y2 ^ 4 * x3 ^ 2 * y3
        - d * x1 * x2 ^ 4 * y2 * x3 ^ 2 * y3 - d * x1 * x2 ^ 3 * y2 ^ 2 * x3 ^ 3 - d * x1 * x2 ^ 3 * y2 ^ 2 * x3
        + d * x1 * x2 ^ 2 * y2 ^ 3 * y3 ^ 3 - d * x1 * x2 ^ 2 * y2 ^ 3 * y3 + d * x1 * x2 * y2 ^ 4 * x3 * y3 ^ 2
        + d * y1 * x2 ^ 4 * y2 * x3 * y3 ^ 2 + d * y1 * x2 ^ 3 * y2 ^ 2 * y3 ^ 3 - d * y1 * x2 ^ 3 * y2 ^ 2 * y3
        - d * y1 * x2 ^ 2 * y2 ^ 3 * x3 ^ 3 - d * y1 * x2 ^ 2 * y2 ^ 3 * x3 - d * y1 * x2 * y2 ^ 4 * x3 ^ 2 * y3) * h1 +
      (d ^ 2 * x1 ^ 2 * y1 * x2 ^ 2 * y2 * x3 ^ 3 * y3 ^ 2 - d ^ 2 * x1 ^ 2 * y1 * x2 * y2 ^ 2 * x3 ^ 2 * y3 ^ 3
        - d ^ 2 * x1 * y1 ^ 2 * x2 ^ 2 * y2 * x3 ^ 2 * y3 ^ 3 + d ^ 2 * x1 * y1 ^ 2 * x2 * y2 ^ 2 * x3 ^ 3 * y3 ^ 2
        + d * x1 ^ 3 * x2 ^ 2 * y2 * x3 ^ 2 * y3 + d * x1 ^ 3 * x2 * y2 ^ 2 * x3 * y3 ^ 2
        + d * x1 ^ 3 * x2 * x3 ^ 3 * y3 ^ 2 + d * x1 ^ 3 * y2 * x3 ^ 2 * y3 ^ 3
        - d * x1 ^ 2 * y1 * x2 ^ 2 * y2 * x3 * y3 ^ 2 - d * x1 ^ 2 * y1 * x2 * y2 ^ 2 * x3 ^ 2 * y3
        + d * x1 ^ 2 * y1 * x2 * x3 ^ 2 * y3 ^ 3 + d * x1 ^ 2 * y1 * y2 * x3 ^ 3 * y3 ^ 2
        - d * x1 * y1 ^ 2 * x2 ^ 2 * y2 * x3 ^ 2 * y3 - d * x1 * y1 ^ 2 * x2 * y2 ^ 2 * x3 * y3 ^ 2
        - d * x1 * y1 ^ 2 * x2 * x3 ^ 3 * y3 ^ 2 - d * x1 * y1 ^ 2 * y2 * x3 ^ 2 * y3 ^ 3
        + d * x1 * x2 ^ 2 * y2 * x3 ^ 2 * y3 + d * x1 * x2 * y2 ^ 2 * x3 * y3 ^ 2 + d * x1 * x2 * x3 ^ 3 * y3 ^ 2
        + d * x1 * y2 * x3 ^ 2 * y3 ^ 3 + d * y1 ^ 3 * x2 ^ 2 * y2 * x3 * y3 ^ 2
        + d * y1 ^ 3 * x2 * y2 ^ 2 * x3 ^ 2 * y3 - d * y1 ^ 3 * x2 * x3 ^ 2 * y3 ^ 3
        - d * y1 ^ 3 * y2 * x3 ^ 3 * y3 ^ 2 - d * y1 * x2 ^ 2 * y2 * x3 * y3 ^ 2 - d * y1 * x2 * y2 ^ 2 * x3 ^ 2 * y3
        + d * y1 * x2 * x3 ^ 2 * y3 ^ 3 + d * y1 * y2 * x3 ^ 3 * y3 ^ 2 + x1 ^ 3 * x2 * x3 ^ 3
        - x1 ^ 3 * x2 * x3 * y3 ^ 2 + x1 ^ 3 * x2 * x3 + x1 ^ 3 * y2 * x3 ^ 2 * y3 - x1 ^ 3 * y2 * y3 ^ 3
        + x1 ^ 3 * y2 * y3 + x1 ^ 2 * y1 * x2 * x3 ^ 2 * y3 - x1 ^ 2 * y1 * x2 * y3 ^ 3 + x1 ^ 2 * y1 * x2 * y3
        + x1 ^ 2 * y1 * y2 * x3 ^ 3 - x1 ^ 2 * y1 * y2 * x3 * y3 ^ 2 + x1 ^ 2 * y1 * y2 * x3
        - x1 * y1 ^ 2 * x2 * x3 ^ 3 + x1 * y1 ^ 2 * x2 * x3 * y3 ^ 2 - x1 * y1 ^ 2 * x2 * x3
        - x1 * y1 ^ 2 * y2 * x3 ^ 2 * y3 + x1 * y1 ^ 2 * y2 * y3 ^ 3 - x1 * y1 ^ 2 * y2 * y3 + x1 * x2 * x3 ^ 3
        - x1 * x2 * x3 * y3 ^ 2 + x1 * x2 * x3 + x1 * y2 * x3 ^ 2 * y3 - x1 * y2 * y3 ^ 3 + x1 * y2 * y3
        - y1 ^ 3 * x2 * x3 ^ 2 * y3 + y1 ^ 3 * x2 * y3 ^ 3 - y1 ^ 3 * x2 * y3 - y1 ^ 3 * y2 * x3 ^ 3
        + y1 ^ 3 * y2 * x3 * y3 ^ 2 - y1 ^ 3 * y2 * x3 + y1 * x2 * x3 ^ 2 * y3 - y1 * x2 * y3 ^ 3 + y1 * x2 * y3
        + y1 * y2 * x3 ^ 3 - y1 * y2 * x3 * y3 ^ 2 + y1 * y2 * x3) * h2 +
      (-d * x1 ^ 2 * y1 * x2 ^ 2 * y2 * x3 + d * x1 ^ 2 * y1 * x2 * y2 ^ 2 * y3 + d * x1 * y1 ^ 2 * x2 ^ 2 * y2 * y3
        - d * x1 * y1 ^ 2 * x2 * y2 ^ 2 * x3 - x1 ^ 3 * x2 ^ 3 * x3 - x1 ^ 3 * x2 ^ 2 * y2 * y3
        + x1 ^ 3 * x2 * y2 ^ 2 * x3 - x1 ^ 3 * x2 * x3 + x1 ^ 3 * y2 ^ 3 * y3 - x1 ^ 3 * y2 * y3
        - x1 ^ 2 * y1 * x2 ^ 3 * y3 - x1 ^ 2 * y1 * x2 ^ 2 * y2 * x3 + x1 ^ 2 * y1 * x2 * y2 ^ 2 * y3
        - x1 ^ 2 * y1 * x2 * y3 + x1 ^ 2 * y1 * y2 ^ 3 * x3 - x1 ^ 2 * y1 * y2 * x3 + x1 * y1 ^ 2 * x2 ^ 3 * x3
        + x1 * y1 ^ 2 * x2 ^ 2 * y2 * y3 - x1 * y1 ^ 2 * x2 * y2 ^ 2 * x3 + x1 * y1 ^ 2 * x2 * x3
        - x1 * y1 ^ 2 * y2 ^ 3 * y3 + x1 * y1 ^ 2 * y2 * y3 - x1 * x2 ^ 3 * x3 - x1 * x2 ^ 2 * y2 * y3
        + x1 * x2 * y2 ^ 2 * x3 - x1 * x2 * x3 + x1 * y2 ^ 3 * y3 - x1 * y2 * y3 + y1 ^ 3 * x2 ^ 3 * y3
        + y1 ^ 3 * x2 ^ 2 * y2 * x3 - y1 ^ 3 * x2 * y2 ^ 2 * y3 + y1 ^ 3 * x2 * y3 - y1 ^ 3 * y2 ^ 3 * x3
        + y1 ^ 3 * y2 * x3 - y1 * x2 ^ 3 * y3 - y1 * x2 ^ 2 * y2 * x3 + y1 * x2 * y2 ^ 2 * y3 - y1 * x2 * y3
        + y1 * y2 ^ 3 * x3 - y1 * y2 * x3) * h3

/-- The second coordinates of (P + Q) + R and P + (Q + R), cleared of denominators. -/
theorem edwards_assoc_y (h1 : y1 ^ 2 - x1 ^ 2 = 1 + d * x1 ^ 2 * y1 ^ 2) (h2 : y2 ^ 2 - x2 ^ 2 = 1 + d * x2 ^ 2 * y2 ^ 2)
    (h3 : y3 ^ 2 - x3 ^ 2 = 1 + d * x3 ^ 2 * y3 ^ 2) :
    ((y1 * y2 + x1 * x2) * (1 + (d * x1 * x2 * y1 * y2)) * y3 + (x1 * y2 + y1 * x2) * (1 - (d * x1 * x2 * y1 * y2)) * x3) *
        (1 - (d * x2 * x3 * y2 * y3) ^ 2 - d * (x2 * y3 + y2 * x3) * (y2 * y3 + x2 * x3) * x1 * y1) =
      (y1 * (y2 * y3 + x2 * x3) * (1 + (d * x2 * x3 * y2 * y3)) + x1 * (x2 * y3 + y2 * x3) * (1 - (d * x2 * x3 * y2 * y3))) *
        (1 - (d * x1 * x2 * y1 * y2) ^ 2 - d * (x1 * y2 + y1 * x2) * (y1 * y2 + x1 * x2) * x3 * y3) := by
  linear_combination
      (d ^ 2 * x1 * x2 ^ 4 * y2 ^ 3 * x3 * y3 ^ 2 + d ^ 2 * x1 * x2 ^ 3 * y2 ^ 4 * x3 ^ 2 * y3
        - d ^ 2 * y1 * x2 ^ 4 * y2 ^ 3 * x3 ^ 2 * y3 - d ^ 2 * y1 * x2 ^ 3 * y2 ^ 4 * x3 * y3 ^ 2
        + d * x1 * x2 ^ 4 * y2 * x3 * y3 ^ 2 + d * x1 * x2 ^ 3 * y2 ^ 2 * y3 ^ 3 - d * x1 * x2 ^ 3 * y2 ^ 2 * y3
        - d * x1 * x2 ^ 2 * y2 ^ 3 * x3 ^ 3 - d * x1 * x2 ^ 2 * y2 ^ 3 * x3 - d * x1 * x2 * y2 ^ 4 * x3 ^ 2 * y3
        - d * y1 * x2 ^ 4 * y2 * x3 ^ 2 * y3 - d * y1 * x2 ^ 3 * y2 ^ 2 * x3 ^ 3 - d * y1 * x2 ^ 3 * y2 ^ 2 * x3
        + d * y1 * x2 ^ 2 * y2 ^ 3 * y3 ^ 3 - d * y1 * x2 ^ 2 * y2 ^ 3 * y3 + d * y1 * x2 * y2 ^ 4 * x3 * y3 ^ 2) * h1 +
      (d ^ 2 * x1 ^ 2 * y1 * x2 ^ 2 * y2 * x3 ^ 2 * y3 ^ 3 - d ^ 2 * x1 ^ 2 * y1 * x2 * y2 ^ 2 * x3 ^ 3 * y3 ^ 2
        - d ^ 2 * x1 * y1 ^ 2 * x2 ^ 2 * y2 * x3 ^ 3 * y3 ^ 2 + d ^ 2 * x1 * y1 ^ 2 * x2 * y2 ^ 2 * x3 ^ 2 * y3 ^ 3
        - d * x1 ^ 3 * x2 ^ 2 * y2 * x3 * y3 ^ 2 - d * x1 ^ 3 * x2 * y2 ^ 2 * x3 ^ 2 * y3
        + d * x1 ^ 3 * x2 * x3 ^ 2 * y3 ^ 3 + d * x1 ^ 3 * y2 * x3 ^ 3 * y3 ^ 2
        + d * x1 ^ 2 * y1 * x2 ^ 2 * y2 * x3 ^ 2 * y3 + d * x1 ^ 2 * y1 * x2 * y2 ^ 2 * x3 * y3 ^ 2
        + d * x1 ^ 2 * y1 * x2 * x3 ^ 3 * y3 ^ 2 + d * x1 ^ 2 * y1 * y2 * x3 ^ 2 * y3 ^ 3
        + d * x1 * y1 ^ 2 * x2 ^ 2 * y2 * x3 * y3 ^ 2 + d * x1 * y1 ^ 2 * x2 * y2 ^ 2 * x3 ^ 2 * y3
        - d * x1 * y1 ^ 2 * x2 * x3 ^ 2 * y3 ^ 3 - d * x1 * y1 ^ 2 * y2 * x3 ^ 3 * y3 ^ 2
        - d * x1 * x2 ^ 2 * y2 * x3 * y3 ^ 2 - d * x1 * x2 * y2 ^ 2 * x3 ^ 2 * y3 + d * x1 * x2 * x3 ^ 2 * y3 ^ 3
        + d * x1 * y2 * x3 ^ 3 * y3 ^ 2 - d * y1 ^ 3 * x2 ^ 2 * y2 * x3 ^ 2 * y3
        - d * y1 ^ 3 * x2 * y2 ^ 2 * x3 * y3 ^ 2 - d * y1 ^ 3 * x2 * x3 ^ 3 * y3 ^ 2
        - d * y1 ^ 3 * y2 * x3 ^ 2 * y3 ^ 3 + d * y1 * x2 ^ 2 * y2 * x3 ^ 2 * y3 + d * y1 * x2 * y2 ^ 2 * x3 * y3 ^ 2
        + d * y1 * x2 * x3 ^ 3 * y3 ^ 2 + d * y1 * y2 * x3 ^ 2 * y3 ^ 3 + x1 ^ 3 * x2 * x3 ^ 2 * y3
        - x1 ^ 3 * x2 * y3 ^ 3 + x1 ^ 3 * x2 * y3 + x1 ^ 3 * y2 * x3 ^ 3 - x1 ^ 3 * y2 * x3 * y3 ^ 2
        + x1 ^ 3 * y2 * x3 + x1 ^ 2 * y1 * x2 * x3 ^ 3 - x1 ^ 2 * y1 * x2 * x3 * y3 ^ 2 + x1 ^ 2 * y1 * x2 * x3
        + x1 ^ 2 * y1 * y2 * x3 ^ 2 * y3 - x1 ^ 2 * y1 * y2 * y3 ^ 3 + x1 ^ 2 * y1 * y2 * y3
        - x1 * y1 ^ 2 * x2 * x3 ^ 2 * y3 + x1 * y1 ^ 2 * x2 * y3 ^ 3 - x1 * y1 ^ 2 * x2 * y3
        - x1 * y1 ^ 2 * y2 * x3 ^ 3 + x1 * y1 ^ 2 * y2 * x3 * y3 ^ 2 - x1 * y1 ^ 2 * y2 * x3 + x1 * x2 * x3 ^ 2 * y3
        - x1 * x2 * y3 ^ 3 + x1 * x2 * y3 + x1 * y2 * x3 ^ 3 - x1 * y2 * x3 * y3 ^ 2 + x1 * y2 * x3
        - y1 ^ 3 * x2 * x3 ^ 3 + y1 ^ 3 * x2 * x3 * y3 ^ 2 - y1 ^ 3 * x2 * x3 - y1 ^ 3 * y2 * x3 ^ 2 * y3
        + y1 ^ 3 * y2 * y3 ^ 3 - y1 ^ 3 * y2 * y3 + y1 * x2 * x3 ^ 3 - y1 * x2 * x3 * y3 ^ 2 + y1 * x2 * x3
        + y1 * y2 * x3 ^ 2 * y3 - y1 * y2 * y3 ^ 3 + y1 * y2 * y3) * h2 +
      (-d * x1 ^ 2 * y1 * x2 ^ 2 * y2 * y3 + d * x1 ^ 2 * y1 * x2 * y2 ^ 2 * x3 + d * x1 * y1 ^ 2 * x2 ^ 2 * y2 * x3
        - d * x1 * y1 ^ 2 * x2 * y2 ^ 2 * y3 - x1 ^ 3 * x2 ^ 3 * y3 - x1 ^ 3 * x2 ^ 2 * y2 * x3
        + x1 ^ 3 * x2 * y2 ^ 2 * y3 - x1 ^ 3 * x2 * y3 + x1 ^ 3 * y2 ^ 3 * x3 - x1 ^ 3 * y2 * x3
        - x1 ^ 2 * y1 * x2 ^ 3 * x3 - x1 ^ 2 * y1 * x2 ^ 2 * y2 * y3 + x1 ^ 2 * y1 * x2 * y2 ^ 2 * x3
        - x1 ^ 2 * y1 * x2 * x3 + x1 ^ 2 * y1 * y2 ^ 3 * y3 - x1 ^ 2 * y1 * y2 * y3 + x1 * y1 ^ 2 * x2 ^ 3 * y3
        + x1 * y1 ^ 2 * x2 ^ 2 * y2 * x3 - x1 * y1 ^ 2 * x2 * y2 ^ 2 * y3 + x1 * y1 ^ 2 * x2 * y3
        - x1 * y1 ^ 2 * y2 ^ 3 * x3 + x1 * y1 ^ 2 * y2 * x3 - x1 * x2 ^ 3 * y3 - x1 * x2 ^ 2 * y2 * x3
        + x1 * x2 * y2 ^ 2 * y3 - x1 * x2 * y3 + x1 * y2 ^ 3 * x3 - x1 * y2 * x3 + y1 ^ 3 * x2 ^ 3 * x3
        + y1 ^ 3 * x2 ^ 2 * y2 * y3 - y1 ^ 3 * x2 * y2 ^ 2 * x3 + y1 ^ 3 * x2 * x3 - y1 ^ 3 * y2 ^ 3 * y3
        + y1 ^ 3 * y2 * y3 - y1 * x2 ^ 3 * x3 - y1 * x2 ^ 2 * y2 * y3 + y1 * x2 * y2 ^ 2 * x3 - y1 * x2 * x3
        + y1 * y2 ^ 3 * y3 - y1 * y2 * y3) * h3

end Associativity

/-! ### The loops and the multiples (R180, R181) -/

@[simp] theorem edMul_zero (q : Point) : edMul 0 q = identityPoint := rfl

@[simp] theorem edMul_succ (n : Nat) (q : Point) : edMul (n + 1) q = edAdd (edMul n q) q := rfl

@[simp] theorem mulLoop_zero (s : Scalar) (q : Point) : mulLoop s 0 q = q := rfl

theorem mulLoop_succ (s : Scalar) (i : Nat) (q : Point) :
    mulLoop s (i + 1) q = mulLoop s i (if s.getLsbD i then edAdd (edAdd q q) basePoint else edAdd q q) := rfl

@[simp] theorem extMulLoop_zero (s : Scalar) (q : ExtPoint) : extMulLoop s 0 q = q := rfl

theorem extMulLoop_succ (s : Scalar) (i : Nat) (q : ExtPoint) :
    extMulLoop s (i + 1) q = extMulLoop s i (if s.getLsbD i then extAdd (extDbl q) (toExt basePoint) else extDbl q) := rfl

end Sys2Proof.Laws
end

