-- ==== Sys2Proof/Laws/State.lean ====
section
/-! SUPPORT. One lemma per field per update of the state: what each named update does to each register. -/

namespace Sys2Proof.Machine

open Sys2Proof

/-! ### The lane registers -/

@[simp] theorem lane_one (s : State) : s.lane .one = s.lane1 := rfl
@[simp] theorem lane_two (s : State) : s.lane .two = s.lane2 := rfl
@[simp] theorem setLane_one (s : State) (r : LaneRegs) : s.setLane .one r = { s with lane1 := r } := rfl
@[simp] theorem setLane_two (s : State) (r : LaneRegs) : s.setLane .two r = { s with lane2 := r } := rfl

@[simp] theorem lane_setLane_same (s : State) (p : Lane) (r : LaneRegs) : (s.setLane p r).lane p = r := by
  cases p <;> rfl

theorem lane_setLane_other {p q : Lane} (s : State) (r : LaneRegs) (hpq : q ≠ p) :
    (s.setLane p r).lane q = s.lane q := by
  cases p <;> cases q <;> first | rfl | exact absurd rfl hpq

/-! ### Writing a lane leaves everything outside the lanes -/

@[simp] theorem setLane_inbuf (s : State) (p : Lane) (r : LaneRegs) : (s.setLane p r).inbuf = s.inbuf := by cases p <;> rfl
@[simp] theorem setLane_incnt (s : State) (p : Lane) (r : LaneRegs) : (s.setLane p r).incnt = s.incnt := by cases p <;> rfl
@[simp] theorem setLane_km0 (s : State) (p : Lane) (r : LaneRegs) : (s.setLane p r).km0 = s.km0 := by cases p <;> rfl
@[simp] theorem setLane_h (s : State) (p : Lane) (r : LaneRegs) : (s.setLane p r).h = s.h := by cases p <;> rfl
@[simp] theorem setLane_blk (s : State) (p : Lane) (r : LaneRegs) : (s.setLane p r).blk = s.blk := by cases p <;> rfl
@[simp] theorem setLane_k0 (s : State) (p : Lane) (r : LaneRegs) : (s.setLane p r).k0 = s.k0 := by cases p <;> rfl
@[simp] theorem setLane_mbuf (s : State) (p : Lane) (r : LaneRegs) : (s.setLane p r).mbuf = s.mbuf := by cases p <;> rfl
@[simp] theorem setLane_idig (s : State) (p : Lane) (r : LaneRegs) : (s.setLane p r).idig = s.idig := by cases p <;> rfl
@[simp] theorem setLane_dig (s : State) (p : Lane) (r : LaneRegs) : (s.setLane p r).dig = s.dig := by cases p <;> rfl
@[simp] theorem setLane_runState (s : State) (p : Lane) (r : LaneRegs) : (s.setLane p r).runState = s.runState := by cases p <;> rfl
@[simp] theorem setLane_err (s : State) (p : Lane) (r : LaneRegs) : (s.setLane p r).err = s.err := by cases p <;> rfl
@[simp] theorem setLane_upc (s : State) (p : Lane) (r : LaneRegs) : (s.setLane p r).upc = s.upc := by cases p <;> rfl
@[simp] theorem setLane_prog (s : State) (p : Lane) (r : LaneRegs) : (s.setLane p r).prog = s.prog := by cases p <;> rfl
@[simp] theorem setLane_agenda (s : State) (p : Lane) (r : LaneRegs) : (s.setLane p r).agenda = s.agenda := by cases p <;> rfl

@[simp] theorem setChildKM_inbuf (s : State) (p : Lane) (l : Level) (k : KeyMaterial) : (s.setChildKM p l k).inbuf = s.inbuf := by cases p <;> rfl
@[simp] theorem setChildKM_incnt (s : State) (p : Lane) (l : Level) (k : KeyMaterial) : (s.setChildKM p l k).incnt = s.incnt := by cases p <;> rfl
@[simp] theorem setChildKM_km0 (s : State) (p : Lane) (l : Level) (k : KeyMaterial) : (s.setChildKM p l k).km0 = s.km0 := by cases p <;> rfl
@[simp] theorem setChildKM_h (s : State) (p : Lane) (l : Level) (k : KeyMaterial) : (s.setChildKM p l k).h = s.h := by cases p <;> rfl
@[simp] theorem setChildKM_blk (s : State) (p : Lane) (l : Level) (k : KeyMaterial) : (s.setChildKM p l k).blk = s.blk := by cases p <;> rfl
@[simp] theorem setChildKM_k0 (s : State) (p : Lane) (l : Level) (k : KeyMaterial) : (s.setChildKM p l k).k0 = s.k0 := by cases p <;> rfl
@[simp] theorem setChildKM_mbuf (s : State) (p : Lane) (l : Level) (k : KeyMaterial) : (s.setChildKM p l k).mbuf = s.mbuf := by cases p <;> rfl
@[simp] theorem setChildKM_idig (s : State) (p : Lane) (l : Level) (k : KeyMaterial) : (s.setChildKM p l k).idig = s.idig := by cases p <;> rfl
@[simp] theorem setChildKM_dig (s : State) (p : Lane) (l : Level) (k : KeyMaterial) : (s.setChildKM p l k).dig = s.dig := by cases p <;> rfl
@[simp] theorem setChildKM_runState (s : State) (p : Lane) (l : Level) (k : KeyMaterial) : (s.setChildKM p l k).runState = s.runState := by cases p <;> rfl
@[simp] theorem setChildKM_err (s : State) (p : Lane) (l : Level) (k : KeyMaterial) : (s.setChildKM p l k).err = s.err := by cases p <;> rfl
@[simp] theorem setChildKM_upc (s : State) (p : Lane) (l : Level) (k : KeyMaterial) : (s.setChildKM p l k).upc = s.upc := by cases p <;> rfl
@[simp] theorem setChildKM_prog (s : State) (p : Lane) (l : Level) (k : KeyMaterial) : (s.setChildKM p l k).prog = s.prog := by cases p <;> rfl
@[simp] theorem setChildKM_agenda (s : State) (p : Lane) (l : Level) (k : KeyMaterial) : (s.setChildKM p l k).agenda = s.agenda := by cases p <;> rfl

@[simp] theorem setSC_inbuf (s : State) (p : Lane) (v : Scalar) : (s.setSC p v).inbuf = s.inbuf := by cases p <;> rfl
@[simp] theorem setSC_incnt (s : State) (p : Lane) (v : Scalar) : (s.setSC p v).incnt = s.incnt := by cases p <;> rfl
@[simp] theorem setSC_km0 (s : State) (p : Lane) (v : Scalar) : (s.setSC p v).km0 = s.km0 := by cases p <;> rfl
@[simp] theorem setSC_h (s : State) (p : Lane) (v : Scalar) : (s.setSC p v).h = s.h := by cases p <;> rfl
@[simp] theorem setSC_blk (s : State) (p : Lane) (v : Scalar) : (s.setSC p v).blk = s.blk := by cases p <;> rfl
@[simp] theorem setSC_k0 (s : State) (p : Lane) (v : Scalar) : (s.setSC p v).k0 = s.k0 := by cases p <;> rfl
@[simp] theorem setSC_mbuf (s : State) (p : Lane) (v : Scalar) : (s.setSC p v).mbuf = s.mbuf := by cases p <;> rfl
@[simp] theorem setSC_idig (s : State) (p : Lane) (v : Scalar) : (s.setSC p v).idig = s.idig := by cases p <;> rfl
@[simp] theorem setSC_dig (s : State) (p : Lane) (v : Scalar) : (s.setSC p v).dig = s.dig := by cases p <;> rfl
@[simp] theorem setSC_runState (s : State) (p : Lane) (v : Scalar) : (s.setSC p v).runState = s.runState := by cases p <;> rfl
@[simp] theorem setSC_err (s : State) (p : Lane) (v : Scalar) : (s.setSC p v).err = s.err := by cases p <;> rfl
@[simp] theorem setSC_upc (s : State) (p : Lane) (v : Scalar) : (s.setSC p v).upc = s.upc := by cases p <;> rfl
@[simp] theorem setSC_prog (s : State) (p : Lane) (v : Scalar) : (s.setSC p v).prog = s.prog := by cases p <;> rfl
@[simp] theorem setSC_agenda (s : State) (p : Lane) (v : Scalar) : (s.setSC p v).agenda = s.agenda := by cases p <;> rfl

@[simp] theorem setPT_inbuf (s : State) (p : Lane) (v : Point) : (s.setPT p v).inbuf = s.inbuf := by cases p <;> rfl
@[simp] theorem setPT_incnt (s : State) (p : Lane) (v : Point) : (s.setPT p v).incnt = s.incnt := by cases p <;> rfl
@[simp] theorem setPT_km0 (s : State) (p : Lane) (v : Point) : (s.setPT p v).km0 = s.km0 := by cases p <;> rfl
@[simp] theorem setPT_h (s : State) (p : Lane) (v : Point) : (s.setPT p v).h = s.h := by cases p <;> rfl
@[simp] theorem setPT_blk (s : State) (p : Lane) (v : Point) : (s.setPT p v).blk = s.blk := by cases p <;> rfl
@[simp] theorem setPT_k0 (s : State) (p : Lane) (v : Point) : (s.setPT p v).k0 = s.k0 := by cases p <;> rfl
@[simp] theorem setPT_mbuf (s : State) (p : Lane) (v : Point) : (s.setPT p v).mbuf = s.mbuf := by cases p <;> rfl
@[simp] theorem setPT_idig (s : State) (p : Lane) (v : Point) : (s.setPT p v).idig = s.idig := by cases p <;> rfl
@[simp] theorem setPT_dig (s : State) (p : Lane) (v : Point) : (s.setPT p v).dig = s.dig := by cases p <;> rfl
@[simp] theorem setPT_runState (s : State) (p : Lane) (v : Point) : (s.setPT p v).runState = s.runState := by cases p <;> rfl
@[simp] theorem setPT_err (s : State) (p : Lane) (v : Point) : (s.setPT p v).err = s.err := by cases p <;> rfl
@[simp] theorem setPT_upc (s : State) (p : Lane) (v : Point) : (s.setPT p v).upc = s.upc := by cases p <;> rfl
@[simp] theorem setPT_prog (s : State) (p : Lane) (v : Point) : (s.setPT p v).prog = s.prog := by cases p <;> rfl
@[simp] theorem setPT_agenda (s : State) (p : Lane) (v : Point) : (s.setPT p v).agenda = s.agenda := by cases p <;> rfl

@[simp] theorem setENC_inbuf (s : State) (p : Lane) (v : Bytes 32) : (s.setENC p v).inbuf = s.inbuf := by cases p <;> rfl
@[simp] theorem setENC_incnt (s : State) (p : Lane) (v : Bytes 32) : (s.setENC p v).incnt = s.incnt := by cases p <;> rfl
@[simp] theorem setENC_km0 (s : State) (p : Lane) (v : Bytes 32) : (s.setENC p v).km0 = s.km0 := by cases p <;> rfl
@[simp] theorem setENC_h (s : State) (p : Lane) (v : Bytes 32) : (s.setENC p v).h = s.h := by cases p <;> rfl
@[simp] theorem setENC_blk (s : State) (p : Lane) (v : Bytes 32) : (s.setENC p v).blk = s.blk := by cases p <;> rfl
@[simp] theorem setENC_k0 (s : State) (p : Lane) (v : Bytes 32) : (s.setENC p v).k0 = s.k0 := by cases p <;> rfl
@[simp] theorem setENC_mbuf (s : State) (p : Lane) (v : Bytes 32) : (s.setENC p v).mbuf = s.mbuf := by cases p <;> rfl
@[simp] theorem setENC_idig (s : State) (p : Lane) (v : Bytes 32) : (s.setENC p v).idig = s.idig := by cases p <;> rfl
@[simp] theorem setENC_dig (s : State) (p : Lane) (v : Bytes 32) : (s.setENC p v).dig = s.dig := by cases p <;> rfl
@[simp] theorem setENC_runState (s : State) (p : Lane) (v : Bytes 32) : (s.setENC p v).runState = s.runState := by cases p <;> rfl
@[simp] theorem setENC_err (s : State) (p : Lane) (v : Bytes 32) : (s.setENC p v).err = s.err := by cases p <;> rfl
@[simp] theorem setENC_upc (s : State) (p : Lane) (v : Bytes 32) : (s.setENC p v).upc = s.upc := by cases p <;> rfl
@[simp] theorem setENC_prog (s : State) (p : Lane) (v : Bytes 32) : (s.setENC p v).prog = s.prog := by cases p <;> rfl
@[simp] theorem setENC_agenda (s : State) (p : Lane) (v : Bytes 32) : (s.setENC p v).agenda = s.agenda := by cases p <;> rfl

@[simp] theorem setBound_inbuf (s : State) (p : Lane) : (s.setBound p).inbuf = s.inbuf := by cases p <;> rfl
@[simp] theorem setBound_incnt (s : State) (p : Lane) : (s.setBound p).incnt = s.incnt := by cases p <;> rfl
@[simp] theorem setBound_km0 (s : State) (p : Lane) : (s.setBound p).km0 = s.km0 := by cases p <;> rfl
@[simp] theorem setBound_h (s : State) (p : Lane) : (s.setBound p).h = s.h := by cases p <;> rfl
@[simp] theorem setBound_blk (s : State) (p : Lane) : (s.setBound p).blk = s.blk := by cases p <;> rfl
@[simp] theorem setBound_k0 (s : State) (p : Lane) : (s.setBound p).k0 = s.k0 := by cases p <;> rfl
@[simp] theorem setBound_mbuf (s : State) (p : Lane) : (s.setBound p).mbuf = s.mbuf := by cases p <;> rfl
@[simp] theorem setBound_idig (s : State) (p : Lane) : (s.setBound p).idig = s.idig := by cases p <;> rfl
@[simp] theorem setBound_dig (s : State) (p : Lane) : (s.setBound p).dig = s.dig := by cases p <;> rfl
@[simp] theorem setBound_runState (s : State) (p : Lane) : (s.setBound p).runState = s.runState := by cases p <;> rfl
@[simp] theorem setBound_err (s : State) (p : Lane) : (s.setBound p).err = s.err := by cases p <;> rfl
@[simp] theorem setBound_upc (s : State) (p : Lane) : (s.setBound p).upc = s.upc := by cases p <;> rfl
@[simp] theorem setBound_prog (s : State) (p : Lane) : (s.setBound p).prog = s.prog := by cases p <;> rfl
@[simp] theorem setBound_agenda (s : State) (p : Lane) : (s.setBound p).agenda = s.agenda := by cases p <;> rfl

/-! ### What each lane write puts into its own lane, and that it leaves the other -/

@[simp] theorem lane_setChildKM_same (s : State) (p : Lane) (l : Level) (k : KeyMaterial) : (s.setChildKM p l k).lane p = (s.lane p).setChild l k := by cases p <;> rfl
theorem lane_setChildKM_other (s : State) (p : Lane) (l : Level) (k : KeyMaterial) {q : Lane} (hpq : q ≠ p) : (s.setChildKM p l k).lane q = s.lane q :=
  lane_setLane_other s _ hpq
@[simp] theorem lane_setSC_same (s : State) (p : Lane) (v : Scalar) : (s.setSC p v).lane p = { s.lane p with sc := some v } := by cases p <;> rfl
theorem lane_setSC_other (s : State) (p : Lane) (v : Scalar) {q : Lane} (hpq : q ≠ p) : (s.setSC p v).lane q = s.lane q :=
  lane_setLane_other s _ hpq
@[simp] theorem lane_setPT_same (s : State) (p : Lane) (v : Point) : (s.setPT p v).lane p = { s.lane p with pt := some v } := by cases p <;> rfl
theorem lane_setPT_other (s : State) (p : Lane) (v : Point) {q : Lane} (hpq : q ≠ p) : (s.setPT p v).lane q = s.lane q :=
  lane_setLane_other s _ hpq
@[simp] theorem lane_setENC_same (s : State) (p : Lane) (v : Bytes 32) : (s.setENC p v).lane p = { s.lane p with enc := some v } := by cases p <;> rfl
theorem lane_setENC_other (s : State) (p : Lane) (v : Bytes 32) {q : Lane} (hpq : q ≠ p) : (s.setENC p v).lane q = s.lane q :=
  lane_setLane_other s _ hpq
@[simp] theorem lane_setBound_same (s : State) (p : Lane) : (s.setBound p).lane p = { s.lane p with bound := true } := by cases p <;> rfl
theorem lane_setBound_other (s : State) (p : Lane) {q : Lane} (hpq : q ≠ p) : (s.setBound p).lane q = s.lane q :=
  lane_setLane_other s _ hpq

/-! ### The children of a lane -/

@[simp] theorem child_setChild_same (r : LaneRegs) (l : Level) (k : KeyMaterial) : (r.setChild l k).child l = some k := by
  match l with
  | 0 | 1 | 2 | 3 => rfl

theorem child_setChild_other (r : LaneRegs) {l j : Level} (k : KeyMaterial) (hjl : j ≠ l) :
    (r.setChild l k).child j = r.child j := by
  match l, j with
  | 0, 0 | 1, 1 | 2, 2 | 3, 3 => exact absurd rfl hjl
  | 0, 1 | 0, 2 | 0, 3 | 1, 0 | 1, 2 | 1, 3 | 2, 0 | 2, 1 | 2, 3 | 3, 0 | 3, 1 | 3, 2 => rfl

@[simp] theorem setChild_sc (r : LaneRegs) (l : Level) (k : KeyMaterial) : (r.setChild l k).sc = r.sc := by
  match l with
  | 0 | 1 | 2 | 3 => rfl
@[simp] theorem setChild_pt (r : LaneRegs) (l : Level) (k : KeyMaterial) : (r.setChild l k).pt = r.pt := by
  match l with
  | 0 | 1 | 2 | 3 => rfl
@[simp] theorem setChild_enc (r : LaneRegs) (l : Level) (k : KeyMaterial) : (r.setChild l k).enc = r.enc := by
  match l with
  | 0 | 1 | 2 | 3 => rfl
@[simp] theorem setChild_bound (r : LaneRegs) (l : Level) (k : KeyMaterial) : (r.setChild l k).bound = r.bound := by
  match l with
  | 0 | 1 | 2 | 3 => rfl

/-! ### The wipe (R46) -/

@[simp] theorem wiped_km1 (r : LaneRegs) : r.wiped.km1 = none := rfl
@[simp] theorem wiped_km2 (r : LaneRegs) : r.wiped.km2 = none := rfl
@[simp] theorem wiped_km3 (r : LaneRegs) : r.wiped.km3 = none := rfl
@[simp] theorem wiped_km4 (r : LaneRegs) : r.wiped.km4 = none := rfl
@[simp] theorem wiped_sc (r : LaneRegs) : r.wiped.sc = none := rfl
@[simp] theorem wiped_pt (r : LaneRegs) : r.wiped.pt = none := rfl
@[simp] theorem wiped_enc (r : LaneRegs) : r.wiped.enc = none := rfl
@[simp] theorem wiped_bound (r : LaneRegs) : r.wiped.bound = r.bound := rfl

@[simp] theorem wipe_inbuf (s : State) : (s.wipe).inbuf = s.inbuf := rfl
@[simp] theorem wipe_incnt (s : State) : (s.wipe).incnt = s.incnt := rfl
@[simp] theorem wipe_km0 (s : State) : (s.wipe).km0 = none := rfl
@[simp] theorem wipe_lane1 (s : State) : (s.wipe).lane1 = s.lane1.wiped := rfl
@[simp] theorem wipe_lane2 (s : State) : (s.wipe).lane2 = s.lane2.wiped := rfl
@[simp] theorem wipe_h (s : State) : (s.wipe).h = none := rfl
@[simp] theorem wipe_blk (s : State) : (s.wipe).blk = none := rfl
@[simp] theorem wipe_k0 (s : State) : (s.wipe).k0 = none := rfl
@[simp] theorem wipe_mbuf (s : State) : (s.wipe).mbuf = none := rfl
@[simp] theorem wipe_idig (s : State) : (s.wipe).idig = none := rfl
@[simp] theorem wipe_dig (s : State) : (s.wipe).dig = none := rfl
@[simp] theorem wipe_runState (s : State) : (s.wipe).runState = s.runState := rfl
@[simp] theorem wipe_err (s : State) : (s.wipe).err = s.err := rfl
@[simp] theorem wipe_upc (s : State) : (s.wipe).upc = s.upc := rfl
@[simp] theorem wipe_prog (s : State) : (s.wipe).prog = s.prog := rfl
@[simp] theorem wipe_agenda (s : State) : (s.wipe).agenda = s.agenda := rfl

@[simp] theorem lane_wipe (s : State) (p : Lane) : s.wipe.lane p = (s.lane p).wiped := by cases p <;> rfl

/-! ### Fault entry (R226) -/

@[simp] theorem raiseFault_inbuf (s : State) (c : FaultCode) : (s.raiseFault c).inbuf = s.inbuf := rfl
@[simp] theorem raiseFault_incnt (s : State) (c : FaultCode) : (s.raiseFault c).incnt = s.incnt := rfl
@[simp] theorem raiseFault_km0 (s : State) (c : FaultCode) : (s.raiseFault c).km0 = none := rfl
@[simp] theorem raiseFault_lane1 (s : State) (c : FaultCode) : (s.raiseFault c).lane1 = s.lane1.wiped := rfl
@[simp] theorem raiseFault_lane2 (s : State) (c : FaultCode) : (s.raiseFault c).lane2 = s.lane2.wiped := rfl
@[simp] theorem raiseFault_h (s : State) (c : FaultCode) : (s.raiseFault c).h = none := rfl
@[simp] theorem raiseFault_blk (s : State) (c : FaultCode) : (s.raiseFault c).blk = none := rfl
@[simp] theorem raiseFault_k0 (s : State) (c : FaultCode) : (s.raiseFault c).k0 = none := rfl
@[simp] theorem raiseFault_mbuf (s : State) (c : FaultCode) : (s.raiseFault c).mbuf = none := rfl
@[simp] theorem raiseFault_idig (s : State) (c : FaultCode) : (s.raiseFault c).idig = none := rfl
@[simp] theorem raiseFault_dig (s : State) (c : FaultCode) : (s.raiseFault c).dig = none := rfl
@[simp] theorem raiseFault_runState (s : State) (c : FaultCode) : (s.raiseFault c).runState = .fail := rfl
@[simp] theorem raiseFault_err (s : State) (c : FaultCode) : (s.raiseFault c).err = .raised c := rfl
@[simp] theorem raiseFault_upc (s : State) (c : FaultCode) : (s.raiseFault c).upc = s.upc := rfl
@[simp] theorem raiseFault_prog (s : State) (c : FaultCode) : (s.raiseFault c).prog = s.prog := rfl
@[simp] theorem raiseFault_agenda (s : State) (c : FaultCode) : (s.raiseFault c).agenda = s.agenda := rfl

@[simp] theorem lane_raiseFault (s : State) (c : FaultCode) (p : Lane) :
    (s.raiseFault c).lane p = (s.lane p).wiped := by cases p <;> rfl

/-! ### The HMAC sequence (R133) -/

@[simp] theorem hmacSeq_inbuf (s : State) (k : Bytes 128) (m : MessageBuffer) : (s.hmacSeq k m).inbuf = s.inbuf := rfl
@[simp] theorem hmacSeq_incnt (s : State) (k : Bytes 128) (m : MessageBuffer) : (s.hmacSeq k m).incnt = s.incnt := rfl
@[simp] theorem hmacSeq_km0 (s : State) (k : Bytes 128) (m : MessageBuffer) : (s.hmacSeq k m).km0 = s.km0 := rfl
@[simp] theorem hmacSeq_lane1 (s : State) (k : Bytes 128) (m : MessageBuffer) : (s.hmacSeq k m).lane1 = s.lane1 := rfl
@[simp] theorem hmacSeq_lane2 (s : State) (k : Bytes 128) (m : MessageBuffer) : (s.hmacSeq k m).lane2 = s.lane2 := rfl
@[simp] theorem hmacSeq_h (s : State) (k : Bytes 128) (m : MessageBuffer) : (s.hmacSeq k m).h = some (outerHash k m) := rfl
@[simp] theorem hmacSeq_blk (s : State) (k : Bytes 128) (m : MessageBuffer) : (s.hmacSeq k m).blk = some (outerBlock (innerDigest k m)) := rfl
@[simp] theorem hmacSeq_k0 (s : State) (k : Bytes 128) (m : MessageBuffer) : (s.hmacSeq k m).k0 = s.k0 := rfl
@[simp] theorem hmacSeq_mbuf (s : State) (k : Bytes 128) (m : MessageBuffer) : (s.hmacSeq k m).mbuf = s.mbuf := rfl
@[simp] theorem hmacSeq_idig (s : State) (k : Bytes 128) (m : MessageBuffer) : (s.hmacSeq k m).idig = some (innerDigest k m) := rfl
@[simp] theorem hmacSeq_dig (s : State) (k : Bytes 128) (m : MessageBuffer) : (s.hmacSeq k m).dig = some (hmacDigest k m) := rfl
@[simp] theorem hmacSeq_runState (s : State) (k : Bytes 128) (m : MessageBuffer) : (s.hmacSeq k m).runState = s.runState := rfl
@[simp] theorem hmacSeq_err (s : State) (k : Bytes 128) (m : MessageBuffer) : (s.hmacSeq k m).err = s.err := rfl
@[simp] theorem hmacSeq_upc (s : State) (k : Bytes 128) (m : MessageBuffer) : (s.hmacSeq k m).upc = s.upc := rfl
@[simp] theorem hmacSeq_prog (s : State) (k : Bytes 128) (m : MessageBuffer) : (s.hmacSeq k m).prog = s.prog := rfl
@[simp] theorem hmacSeq_agenda (s : State) (k : Bytes 128) (m : MessageBuffer) : (s.hmacSeq k m).agenda = s.agenda := rfl

@[simp] theorem loadHmac_inbuf (s : State) (k : Bytes 128) (m : MessageBuffer) : (s.loadHmac k m).inbuf = s.inbuf := rfl
@[simp] theorem loadHmac_incnt (s : State) (k : Bytes 128) (m : MessageBuffer) : (s.loadHmac k m).incnt = s.incnt := rfl
@[simp] theorem loadHmac_km0 (s : State) (k : Bytes 128) (m : MessageBuffer) : (s.loadHmac k m).km0 = s.km0 := rfl
@[simp] theorem loadHmac_lane1 (s : State) (k : Bytes 128) (m : MessageBuffer) : (s.loadHmac k m).lane1 = s.lane1 := rfl
@[simp] theorem loadHmac_lane2 (s : State) (k : Bytes 128) (m : MessageBuffer) : (s.loadHmac k m).lane2 = s.lane2 := rfl
@[simp] theorem loadHmac_h (s : State) (k : Bytes 128) (m : MessageBuffer) : (s.loadHmac k m).h = some (outerHash k m) := rfl
@[simp] theorem loadHmac_blk (s : State) (k : Bytes 128) (m : MessageBuffer) : (s.loadHmac k m).blk = some (outerBlock (innerDigest k m)) := rfl
@[simp] theorem loadHmac_k0 (s : State) (k : Bytes 128) (m : MessageBuffer) : (s.loadHmac k m).k0 = some k := rfl
@[simp] theorem loadHmac_mbuf (s : State) (k : Bytes 128) (m : MessageBuffer) : (s.loadHmac k m).mbuf = some m := rfl
@[simp] theorem loadHmac_idig (s : State) (k : Bytes 128) (m : MessageBuffer) : (s.loadHmac k m).idig = some (innerDigest k m) := rfl
@[simp] theorem loadHmac_dig (s : State) (k : Bytes 128) (m : MessageBuffer) : (s.loadHmac k m).dig = some (hmacDigest k m) := rfl
@[simp] theorem loadHmac_runState (s : State) (k : Bytes 128) (m : MessageBuffer) : (s.loadHmac k m).runState = s.runState := rfl
@[simp] theorem loadHmac_err (s : State) (k : Bytes 128) (m : MessageBuffer) : (s.loadHmac k m).err = s.err := rfl
@[simp] theorem loadHmac_upc (s : State) (k : Bytes 128) (m : MessageBuffer) : (s.loadHmac k m).upc = s.upc := rfl
@[simp] theorem loadHmac_prog (s : State) (k : Bytes 128) (m : MessageBuffer) : (s.loadHmac k m).prog = s.prog := rfl
@[simp] theorem loadHmac_agenda (s : State) (k : Bytes 128) (m : MessageBuffer) : (s.loadHmac k m).agenda = s.agenda := rfl

@[simp] theorem lane_hmacSeq (s : State) (k : Bytes 128) (m : MessageBuffer) (p : Lane) :
    (s.hmacSeq k m).lane p = s.lane p := by cases p <;> rfl
@[simp] theorem lane_loadHmac (s : State) (k : Bytes 128) (m : MessageBuffer) (p : Lane) :
    (s.loadHmac k m).lane p = s.lane p := by cases p <;> rfl

/-! ### Reset and CLEAR (R45) -/

@[simp] theorem resetRegisters_inbuf (s : State) : (s.resetRegisters).inbuf = [] := rfl
@[simp] theorem resetRegisters_incnt (s : State) : (s.resetRegisters).incnt = 0 := rfl
@[simp] theorem resetRegisters_km0 (s : State) : (s.resetRegisters).km0 = none := rfl
@[simp] theorem resetRegisters_lane1 (s : State) : (s.resetRegisters).lane1 = LaneRegs.reset := rfl
@[simp] theorem resetRegisters_lane2 (s : State) : (s.resetRegisters).lane2 = LaneRegs.reset := rfl
@[simp] theorem resetRegisters_h (s : State) : (s.resetRegisters).h = none := rfl
@[simp] theorem resetRegisters_blk (s : State) : (s.resetRegisters).blk = none := rfl
@[simp] theorem resetRegisters_k0 (s : State) : (s.resetRegisters).k0 = none := rfl
@[simp] theorem resetRegisters_mbuf (s : State) : (s.resetRegisters).mbuf = none := rfl
@[simp] theorem resetRegisters_idig (s : State) : (s.resetRegisters).idig = none := rfl
@[simp] theorem resetRegisters_dig (s : State) : (s.resetRegisters).dig = none := rfl
@[simp] theorem resetRegisters_runState (s : State) : (s.resetRegisters).runState = .idle := rfl
@[simp] theorem resetRegisters_err (s : State) : (s.resetRegisters).err = .noFault := rfl
@[simp] theorem resetRegisters_upc (s : State) : (s.resetRegisters).upc = 0 := rfl
@[simp] theorem resetRegisters_prog (s : State) : (s.resetRegisters).prog = s.prog := rfl
@[simp] theorem resetRegisters_agenda (s : State) : (s.resetRegisters).agenda = s.agenda := rfl

/-! ### Placing an op word -/

@[simp] theorem placeWord_inbuf (s : State) (w : Byte) : (s.placeWord w).inbuf = s.inbuf := rfl
@[simp] theorem placeWord_incnt (s : State) (w : Byte) : (s.placeWord w).incnt = s.incnt := rfl
@[simp] theorem placeWord_km0 (s : State) (w : Byte) : (s.placeWord w).km0 = s.km0 := rfl
@[simp] theorem placeWord_lane1 (s : State) (w : Byte) : (s.placeWord w).lane1 = s.lane1 := rfl
@[simp] theorem placeWord_lane2 (s : State) (w : Byte) : (s.placeWord w).lane2 = s.lane2 := rfl
@[simp] theorem placeWord_h (s : State) (w : Byte) : (s.placeWord w).h = s.h := rfl
@[simp] theorem placeWord_blk (s : State) (w : Byte) : (s.placeWord w).blk = s.blk := rfl
@[simp] theorem placeWord_k0 (s : State) (w : Byte) : (s.placeWord w).k0 = s.k0 := rfl
@[simp] theorem placeWord_mbuf (s : State) (w : Byte) : (s.placeWord w).mbuf = s.mbuf := rfl
@[simp] theorem placeWord_idig (s : State) (w : Byte) : (s.placeWord w).idig = s.idig := rfl
@[simp] theorem placeWord_dig (s : State) (w : Byte) : (s.placeWord w).dig = s.dig := rfl
@[simp] theorem placeWord_runState (s : State) (w : Byte) : (s.placeWord w).runState = s.runState := rfl
@[simp] theorem placeWord_err (s : State) (w : Byte) : (s.placeWord w).err = s.err := rfl
@[simp] theorem placeWord_upc (s : State) (w : Byte) : (s.placeWord w).upc = s.upc := rfl
@[simp] theorem placeWord_prog (s : State) (w : Byte) : (s.placeWord w).prog = s.prog.set s.upc.toNat w := rfl
@[simp] theorem placeWord_agenda (s : State) (w : Byte) : (s.placeWord w).agenda = s.agenda := rfl

/-! ### The advance of UPC (R36): what it leaves alone in both of its cases -/

@[simp] theorem advance_inbuf (s : State) : s.advance.inbuf = s.inbuf := by
  unfold State.advance
  split <;> rfl
@[simp] theorem advance_incnt (s : State) : s.advance.incnt = s.incnt := by
  unfold State.advance
  split <;> rfl
@[simp] theorem advance_prog (s : State) : s.advance.prog = s.prog := by
  unfold State.advance
  split <;> rfl
@[simp] theorem advance_agenda (s : State) : s.advance.agenda = s.agenda := by
  unfold State.advance
  split <;> rfl

theorem advance_bound (s : State) (p : Lane) : (s.advance.lane p).bound = (s.lane p).bound := by
  unfold State.advance
  split <;> cases p <;> rfl

end Sys2Proof.Machine
end

