-- ==== Sys2Proof/Laws/Ops.lean ====
section
/-! SUPPORT. One lemma per shared operation, saying once everything it can do: the marks, the end of an operation, the memory
of the frame, the codecs' lengths, and the host's accesses. -/

namespace Sys2Proof.Machine

open Sys2Proof

/-! ### The marks (R11) -/

@[simp] theorem need_some {α : Type} (v : α) : need (some v) = .ok v := rfl
@[simp] theorem need_none {α : Type} : need (none : Option α) = .error .seq := rfl
@[simp] theorem fresh_none {α : Type} : fresh (none : Option α) = .ok () := rfl
@[simp] theorem fresh_some {α : Type} (v : α) : fresh (some v) = .error .seq := rfl
@[simp] theorem check_true (c : FaultCode) : check c true = .ok () := rfl
@[simp] theorem check_false (c : FaultCode) : check c false = .error c := rfl

/-- What `need` can do. -/
theorem need_cases {α : Type} (r : Option α) :
    (∃ v, r = some v ∧ need r = .ok v) ∨ (r = none ∧ need r = .error .seq) := by
  cases r with
  | none => exact .inr ⟨rfl, rfl⟩
  | some v => exact .inl ⟨v, rfl, rfl⟩

/-- What `fresh` can do. -/
theorem fresh_cases {α : Type} (r : Option α) :
    (r = none ∧ fresh r = .ok ()) ∨ (r.isSome = true ∧ fresh r = .error .seq) := by
  cases r with
  | none => exact .inl ⟨rfl, rfl⟩
  | some v => exact .inr ⟨rfl, rfl⟩

@[simp] theorem except_bind_ok {ε α β : Type} (a : α) (f : α → Except ε β) : (Except.ok a >>= f) = f a := rfl
@[simp] theorem except_bind_error {ε α β : Type} (e : ε) (f : α → Except ε β) :
    ((Except.error e : Except ε α) >>= f) = .error e := rfl

/-! ### The end of an operation (R36, R226) -/

@[simp] theorem complete_ok (s t : State) : complete s (.ok t) = .next t.advance := rfl
@[simp] theorem complete_error (s : State) (c : FaultCode) : complete s (.error c) = .next (s.raiseFault c) := rfl

/-- What the end of an operation can do: it always answers a next state. -/
theorem complete_cases {s t : State} {r : Except FaultCode State} (h : complete s r = .next t) :
    (∃ u, r = .ok u ∧ t = u.advance) ∨ (∃ c, r = .error c ∧ t = s.raiseFault c) := by
  cases r with
  | ok u => exact .inl ⟨u, rfl, (Host.Outcome.next.inj h).symm⟩
  | error c => exact .inr ⟨c, rfl, (Host.Outcome.next.inj h).symm⟩

theorem advance_of_ne {s : State} (h : s.upc ≠ 31) : s.advance = { s with upc := s.upc + 1 } := if_neg h

theorem advance_of_eq {s : State} (h : s.upc = 31) : s.advance = s.raiseFault .illop := if_pos h

/-- What the advance of UPC can do. -/
theorem advance_cases (s : State) :
    (s.upc ≠ 31 ∧ s.advance = { s with upc := s.upc + 1 }) ∨ (s.upc = 31 ∧ s.advance = s.raiseFault .illop) := by
  by_cases h : s.upc = 31
  · exact .inr ⟨h, advance_of_eq h⟩
  · exact .inl ⟨h, advance_of_ne h⟩

/-! ### The memory of the frame (R22) -/

theorem read_eq_none_of_above {a b : Nat} : ∀ {m : Memory}, Memory.above a m = true → b ≤ a → Memory.read m b = none
  | [], _, _ => rfl
  | c :: m, h, hb => by
    simp only [Memory.above, Bool.and_eq_true, decide_eq_true_eq] at h
    have hne : c.1 ≠ b := by omega
    simp only [Memory.read, if_neg hne]
    exact read_eq_none_of_above h.2 hb

theorem above_mono {a b : Nat} (hab : b ≤ a) : ∀ {m : Memory}, Memory.above a m = true → Memory.above b m = true
  | [], _ => rfl
  | c :: m, h => by
    simp only [Memory.above, Bool.and_eq_true, decide_eq_true_eq] at h ⊢
    exact ⟨by omega, above_mono hab h.2⟩

/-- Reading back a written byte. -/
theorem read_write_same (a : Nat) (b : Byte) : ∀ m : Memory, Memory.read (Memory.write m a b) a = some b
  | [] => by simp [Memory.write, Memory.read]
  | c :: m => by
    unfold Memory.write
    split
    · simp [Memory.read]
    · split
      · simp [Memory.read]
      · next h1 h2 =>
        have hne : c.1 ≠ a := fun h => h2 h.symm
        simp [Memory.read, hne, read_write_same a b m]

/-- A write leaves every other index alone. -/
theorem read_write_other {a a' : Nat} (b : Byte) (h : a' ≠ a) :
    ∀ m : Memory, Memory.read (Memory.write m a b) a' = Memory.read m a'
  | [] => by
    have : a ≠ a' := fun e => h e.symm
    simp [Memory.write, Memory.read, this]
  | c :: m => by
    have haa : a ≠ a' := fun e => h e.symm
    unfold Memory.write
    split
    · simp [Memory.read, haa]
    · split
      · next h2 =>
        have hc : c.1 ≠ a' := fun e => h (by omega)
        simp [Memory.read, haa, hc]
      · simp [Memory.read, read_write_other b h m]

theorem above_write {a i : Nat} (b : Byte) (h : a < i) :
    ∀ {m : Memory}, Memory.above a m = true → Memory.above a (Memory.write m i b) = true
  | [], _ => by simp [Memory.write, Memory.above, h]
  | c :: m, hm => by
    simp only [Memory.above, Bool.and_eq_true, decide_eq_true_eq] at hm
    unfold Memory.write
    split
    · simp [Memory.above, h, hm]
    · split
      · simp [Memory.above, h, hm]
      · simp [Memory.above, hm.1, above_write b h hm.2]

/-- A write keeps the canonical form. -/
theorem wf_write (i : Nat) (b : Byte) : ∀ {m : Memory}, Memory.wf m = true → Memory.wf (Memory.write m i b) = true
  | [], _ => rfl
  | c :: m, hm => by
    simp only [Memory.wf, Bool.and_eq_true] at hm
    unfold Memory.write
    split
    · next h =>
      simp [Memory.wf, Memory.above, h, hm, above_mono (Nat.le_of_lt h) hm.1]
    · split
      · next h2 =>
        subst h2
        simp [Memory.wf, hm]
      · next h1 h2 =>
        have hlt : c.1 < i := by omega
        simp [Memory.wf, above_write b hlt hm.1, wf_write i b hm.2]

/-- A write inside the frame keeps every index inside the frame. -/
theorem inFrame_write {i : Nat} (b : Byte) (h : i < 160) :
    ∀ {m : Memory}, Memory.inFrame m = true → Memory.inFrame (Memory.write m i b) = true
  | [], _ => by simp [Memory.write, Memory.inFrame, h]
  | c :: m, hm => by
    simp only [Memory.inFrame, List.all_cons, Bool.and_eq_true, decide_eq_true_eq] at hm
    have ih := inFrame_write b h (m := m) hm.2
    simp only [Memory.inFrame] at ih
    unfold Memory.write
    split
    · simp only [Memory.inFrame, List.all_cons, Bool.and_eq_true, decide_eq_true_eq]
      exact ⟨h, hm⟩
    · split
      · simp only [Memory.inFrame, List.all_cons, Bool.and_eq_true, decide_eq_true_eq]
        exact ⟨h, hm.2⟩
      · simp only [Memory.inFrame, List.all_cons, Bool.and_eq_true, decide_eq_true_eq]
        exact ⟨hm.1, ih⟩

/-- An index outside the frame reads as the mark. -/
theorem read_eq_none_of_inFrame {a : Nat} (ha : 160 ≤ a) :
    ∀ {m : Memory}, Memory.inFrame m = true → Memory.read m a = none
  | [], _ => rfl
  | c :: m, h => by
    simp only [Memory.inFrame, List.all_cons, Bool.and_eq_true, decide_eq_true_eq] at h
    have hne : c.1 ≠ a := by omega
    simp only [Memory.read, if_neg hne]
    exact read_eq_none_of_inFrame ha h.2

/-- The memory of the state right after reset has the canonical form. -/
theorem wf_reset : Memory.wf State.reset.inbuf = true := rfl

/-- A range can be read exactly when every one of its indices holds a value. -/
theorem readRange_isSome (m : Memory) :
    ∀ n a, (Memory.readRange m a n).isSome = true ↔ ∀ i < n, (Memory.read m (a + i)).isSome = true
  | 0, a => by simp [Memory.readRange]
  | n + 1, a => by
    have ih := readRange_isSome m n (a + 1)
    constructor
    · intro h i hi
      cases hr : Memory.read m a with
      | none => simp [Memory.readRange, hr] at h
      | some b =>
        cases hs : Memory.readRange m (a + 1) n with
        | none => simp [Memory.readRange, hr, hs] at h
        | some bs =>
          cases i with
          | zero => simp [hr]
          | succ j =>
            have := ih.mp (by simp [hs]) j (by omega)
            rwa [show a + (j + 1) = a + 1 + j by omega]
    · intro h
      have h0 := h 0 (by omega)
      have hrest : (Memory.readRange m (a + 1) n).isSome = true :=
        ih.mpr fun j hj => by
          rw [show a + 1 + j = a + (j + 1) by omega]
          exact h (j + 1) (by omega)
      rw [Nat.add_zero] at h0
      obtain ⟨b, hb⟩ := Option.isSome_iff_exists.mp h0
      obtain ⟨bs, hbs⟩ := Option.isSome_iff_exists.mp hrest
      simp [Memory.readRange, hb, hbs]

/-- The bytes read from a range are as many as asked for. -/
theorem length_readRange {m : Memory} : ∀ {n a : Nat} {bs : List Byte}, Memory.readRange m a n = some bs → bs.length = n
  | 0, a, bs, h => by
    simp only [Memory.readRange, Option.some.injEq] at h
    simp [← h]
  | n + 1, a, bs, h => by
    cases hr : Memory.read m a with
    | none => simp [Memory.readRange, hr] at h
    | some b =>
      cases hs : Memory.readRange m (a + 1) n with
      | none => simp [Memory.readRange, hr, hs] at h
      | some bs' =>
        simp only [Memory.readRange, hr, hs, Option.some.injEq] at h
        simp [← h, length_readRange hs]

/-! ### Byte strings -/

theorem fitBytes_of_length : ∀ {n : Nat} {l : List Byte}, l.length = n → fitBytes n l = l
  | 0, [], _ => rfl
  | n + 1, [], h => by simp at h
  | 0, b :: l, h => by simp at h
  | n + 1, b :: l, h => by
    simp only [List.length_cons, Nat.add_right_cancel_iff] at h
    simp [fitBytes, fitBytes_of_length h]

/-- A list of `n` bytes is kept as it is. -/
theorem toList_bytesOf {n : Nat} {l : List Byte} (h : l.length = n) : (bytesOf n l).toList = l :=
  fitBytes_of_length h

@[simp] theorem length_serBE : ∀ n v, (serBE n v).length = n
  | 0, _ => rfl
  | n + 1, v => by simp [serBE, length_serBE n v]

@[simp] theorem length_serLE : ∀ n v, (serLE n v).length = n
  | 0, _ => rfl
  | n + 1, v => by simp [serLE, length_serLE n (v >>> 8)]

@[simp] theorem length_copies (n : Nat) (b : Byte) : (copies n b).length = n := List.length_replicate

@[simp] theorem length_xorPad (b : Byte) (k : List Byte) : (xorPad b k).length = k.length := List.length_map _

theorem length_slice {l : List Byte} {a b : Nat} (h : b ≤ l.length) : (slice l a b).length = b - a := by
  simp only [slice, List.length_drop, List.length_take]
  omega

/-- The digest's bytes are the eight words' bytes in order. -/
theorem toList_serH (h : Words8) : (serH h).toList =
    ser64 h.w0 ++ ser64 h.w1 ++ ser64 h.w2 ++ ser64 h.w3 ++ ser64 h.w4 ++ ser64 h.w5 ++ ser64 h.w6 ++ ser64 h.w7 :=
  toList_bytesOf (by simp [ser64])

/-! ### The views of the frame -/

theorem frameValid_iff (s : State) : s.frameValid = true ↔ s.incnt = 160 := by simp [State.frameValid]

/-- A view that has a value is a view of a valid frame. -/
theorem frameValid_of_frameBytes {s : State} {a n : Nat} {bs : List Byte} (h : s.frameBytes a n = some bs) :
    s.frameValid = true ∧ s.inbuf.readRange a n = some bs := by
  unfold State.frameBytes at h
  split at h
  · exact ⟨‹_›, h⟩
  · cases h

/-- Two states with the same frame have the same views. -/
theorem frameBytes_congr {s t : State} (hb : t.inbuf = s.inbuf) (hc : t.incnt = s.incnt) (a n : Nat) :
    t.frameBytes a n = s.frameBytes a n := by
  simp [State.frameBytes, State.frameValid, hb, hc]

theorem seedView_congr {s t : State} (hb : t.inbuf = s.inbuf) (hc : t.incnt = s.incnt) : t.seedView = s.seedView := by
  simp [State.seedView, frameBytes_congr hb hc]

theorem pathView_congr {s t : State} (hb : t.inbuf = s.inbuf) (hc : t.incnt = s.incnt) (p : Lane) (i : Level) :
    t.pathView p i = s.pathView p i := by
  simp [State.pathView, frameBytes_congr hb hc]

theorem pubkeyView_congr {s t : State} (hb : t.inbuf = s.inbuf) (hc : t.incnt = s.incnt) (p : Lane) :
    t.pubkeyView p = s.pubkeyView p := by
  cases p <;> simp [State.pubkeyView, frameBytes_congr hb hc]

/-! ### Turns -/

theorem step_empty {s : State} (h : s.agenda = []) : step s = sequencerTurn s := by simp [step, h]

theorem step_sequencer {s : State} {rest : List Turn} (h : s.agenda = .sequencer :: rest) :
    step s = sequencerTurn { s with agenda := rest } := by simp [step, h]

theorem step_host {s : State} {a : HostAction} {rest : List Turn} (h : s.agenda = .host a :: rest) :
    step s = .next (hostAct a { s with agenda := rest }) := by simp [step, h]

theorem step_reset {s : State} {rest : List Turn} (h : s.agenda = .resetInput :: rest) :
    step s = .next (resetInput { s with agenda := rest }) := by simp [step, h]

/-- What the sequencer's turn can do. -/
theorem sequencerTurn_cases (s : State) :
    (s.runState = .busy ∧ ∃ i, s.fetchOp = .ok i ∧ sequencerTurn s = exec i s) ∨
    (s.runState = .busy ∧ ∃ e, s.fetchOp = .error e ∧ sequencerTurn s = .next (s.raiseFault .illop)) ∨
    (s.runState ≠ .busy ∧ sequencerTurn s = .next s) := by
  cases hs : s.runState <;> cases hf : s.fetchOp <;> simp [sequencerTurn, hs, hf]

/-- What a host access can do to the state (R71, R73 to R75): push a byte, START, CLEAR, or nothing. -/
theorem hostAct_cases (a : HostAction) (s : State) :
    (∃ b, a = .write 0 b ∧ hostAct a s = s.pushByte b) ∨
    (a = .write 1 0x01 ∧ hostAct a s = s.start) ∨
    (a = .write 1 0x02 ∧ hostAct a s = s.clear) ∨
    hostAct a s = s := by
  cases a with
  | read o => exact .inr (.inr (.inr rfl))
  | write o b =>
    by_cases h0 : o = 0
    · subst h0
      exact .inl ⟨b, rfl, rfl⟩
    · by_cases h1 : o = 1
      · subst h1
        by_cases hs : b = 0x01
        · subst hs
          exact .inr (.inl ⟨rfl, rfl⟩)
        · by_cases hc : b = 0x02
          · subst hc
            exact .inr (.inr (.inl ⟨rfl, rfl⟩))
          · refine .inr (.inr (.inr ?_))
            show s.command b = s
            rw [State.command, if_neg hs, if_neg hc]
      · refine .inr (.inr (.inr ?_))
        simp [hostAct, hostWrite, dinOffset, ctrlOffset, h0, h1]

/-- What a push of a frame byte can do (R71). -/
theorem pushByte_cases (s : State) (b : Byte) :
    (s.runState = .idle ∧ s.incnt.val < 160 ∧ s.pushByte b =
      { s with inbuf := Memory.write s.inbuf s.incnt.val b, incnt := Fin.ofNat 162 (s.incnt.val + 1) }) ∨
    (s.runState = .idle ∧ 160 ≤ s.incnt.val ∧ s.pushByte b = { s with incnt := 161 }) ∨
    (s.runState ≠ .idle ∧ s.pushByte b = s) := by
  by_cases hi : s.runState = .idle
  · by_cases hc : s.incnt.val < 160
    · exact .inl ⟨hi, hc, by simp [State.pushByte, hi, hc]⟩
    · exact .inr (.inl ⟨hi, by omega, by simp [State.pushByte, hi, hc]⟩)
  · exact .inr (.inr ⟨hi, by simp [State.pushByte, hi]⟩)

end Sys2Proof.Machine
end

