-- ==== Sys2Proof/Laws/PerInstr.lean ====
section
/-! SUPPORT. The families of lemmas per operation: one lemma per constructor of `Instr`. -/

namespace Sys2Proof.Laws.EncodedWordMatchesRow

open Sys2Proof

/-- The op word of the operation matches a row of the opcode map of R93 that bears the operation's mnemonic, and that row
reads the operation, with its operands, back from the word. -/
def Statement (i : Instr) : Prop :=
  ∃ r ∈ opcodeRows, r.mnemonic = i.mnemonic ∧ r.accepts (encode i) = true ∧ r.operation (encode i) = i

theorem chk : Statement .chk := ⟨opcodeRows[0], List.getElem_mem _, rfl, rfl, rfl⟩

theorem shai : Statement .shai := ⟨opcodeRows[1], List.getElem_mem _, rfl, rfl, rfl⟩

theorem shab : Statement .shab := ⟨opcodeRows[2], List.getElem_mem _, rfl, rfl, rfl⟩

theorem hmac : Statement .hmac := ⟨opcodeRows[3], List.getElem_mem _, rfl, rfl, rfl⟩

theorem mkd : Statement .mkd := ⟨opcodeRows[4], List.getElem_mem _, rfl, rfl, rfl⟩

theorem ckd (p : Lane) (l : Level) : Statement (.ckd p l) :=
  ⟨opcodeRows[5], List.getElem_mem _, rfl, by revert l; cases p <;> decide, by revert l; cases p <;> decide⟩

theorem clamp (p : Lane) : Statement (.clamp p) :=
  ⟨opcodeRows[6], List.getElem_mem _, rfl, by cases p <;> rfl, by cases p <;> rfl⟩

theorem pmul (p : Lane) : Statement (.pmul p) :=
  ⟨opcodeRows[7], List.getElem_mem _, rfl, by cases p <;> rfl, by cases p <;> rfl⟩

theorem penc (p : Lane) : Statement (.penc p) :=
  ⟨opcodeRows[8], List.getElem_mem _, rfl, by cases p <;> rfl, by cases p <;> rfl⟩

theorem bind (p : Lane) : Statement (.bind p) :=
  ⟨opcodeRows[9], List.getElem_mem _, rfl, by cases p <;> rfl, by cases p <;> rfl⟩

theorem halt : Statement .halt := ⟨opcodeRows[10], List.getElem_mem _, rfl, rfl, rfl⟩

end Sys2Proof.Laws.EncodedWordMatchesRow
end

