-- ==== Sys2Proof/Laws/Sha512.lean ====
section
/-! SUPPORT. The stages of the compression function (R118) for the provers: one equation per form of their lists, and the last
stage split off. -/

namespace Sys2Proof.Laws

open Sys2Proof Sys2Proof.Machine

@[simp] theorem sha512Rounds_nil (v : Words8) (ws : List Word) : sha512Rounds v [] ws = v := rfl

@[simp] theorem sha512Rounds_cons (v : Words8) (k w : Word) (ks ws : List Word) :
    sha512Rounds v (k :: ks) (w :: ws) = sha512Rounds (sha512Round v k w) ks ws := rfl

/-- The stages over lists of one length, one longer: those before and then the last stage. -/
theorem sha512Rounds_append_singleton (k w : Word) : ∀ (v : Words8) (ks ws : List Word), ks.length = ws.length →
    sha512Rounds v (ks ++ [k]) (ws ++ [w]) = sha512Round (sha512Rounds v ks ws) k w
  | _, [], [], _ => rfl
  | v, k' :: ks, w' :: ws, h =>
    sha512Rounds_append_singleton k w (sha512Round v k' w') ks ws (by simpa using h)

/-- One stage more over two lists that both go on: the stage with the words at that index. -/
theorem sha512Rounds_take_succ (v : Words8) (ks ws : List Word) (t : Nat) (hk : t < ks.length) (hw : t < ws.length) :
    sha512Rounds v (ks.take (t + 1)) (ws.take (t + 1)) =
      sha512Round (sha512Rounds v (ks.take t) (ws.take t)) (ks.getD t 0) (ws.getD t 0) := by
  rw [List.take_succ_eq_append_getElem hk, List.take_succ_eq_append_getElem hw, sha512Rounds_append_singleton _ _ _ _ _
    (by simp; omega)]
  simp [List.getD, hk, hw]

end Sys2Proof.Laws
end

