-- ==== Sys2Proof/Tests/Slice0.lean ====
section
/-! SUPPORT. The model's own tests. Every expected value is taken from the spec: spec/95_test_vectors.md (the vector is named in the
docstring) or the rule named. The last part holds, for every statement with hypotheses, a concrete state and operands that meet
them. -/

namespace Sys2Proof.Tests

open Sys2Proof Sys2Proof.Machine

/-! ### Helpers -/

/-- The state after an outcome; the machine has no other outcome. -/
def after (o : Host.Outcome State Fault Refusal) : State :=
  match o with
  | .next t => t
  | .fault r => nomatch r
  | .refused _ => State.reset

/-- A run at UPC 0 with everything else as after reset. -/
def busy : State := { State.reset with runState := .busy }

/-- A byte string of length `n`, written as one number, its first byte the most significant. -/
def bytes (n v : Nat) : Bytes n := bytesOf n (serBE n v)

/-- A list of bytes with their indices. -/
def cellsFrom : Nat → List Byte → Memory
  | _, [] => []
  | a, b :: bs => (a, b) :: cellsFrom (a + 1) bs

/-- The state with these bytes pushed as its frame. -/
def withFrame (s : State) (l : List Byte) : State := { s with inbuf := cellsFrom 0 l, incnt := Fin.ofNat 162 l.length }

/-- The state with KM0 preset. -/
def withKM0 (s : State) (k : KeyMaterial) : State := { s with km0 := some k }

/-- Key material from two numbers. -/
def keyMaterial (k c : Nat) : KeyMaterial := { key := bytes 32 k, cc := bytes 32 c }

/-- Frame A of section 8 of spec/95_test_vectors.md. -/
def frameA : List Byte :=
  serBE 32 0x5586c577bec059cf754118285b70ddeba27553f634226fba86d21a93dace2564 ++
  serBE 32 0x98583f107535de61f1784a0043e5ecf5a99ba138aeda2c819966df23836f31b4 ++
  serBE 32 0x0000002c000001f500000000000000000000002c000001f50000000000000001 ++ copies 64 0

/-- A frame whose eight indices are 0x7fffffff but for the last one. -/
def frameIndex (last : Nat) : List Byte :=
  copies 64 0 ++ serBE 28 0x7fffffff7fffffff7fffffff7fffffff7fffffff7fffffff7fffffff ++ serBE 4 last ++ copies 64 0

/-- The master key material of vector M1. -/
def masterA : KeyMaterial :=
  keyMaterial 0xaf790adc1c8f6043c5c79de0d5fd061f7db0382f74c4c2c96dc92115246d2360
    0x11b07af7d1552b0bce9c297f05236bb5e647a7a99916d127952b705030ad34bc

/-- The level-1 key material of vector K1. -/
def childA : KeyMaterial :=
  keyMaterial 0xef2d9a9b8d146d52979d717512d028c07d8ede12fa5fecf2d38056fc740c3d21
    0x68da75d1be78e6ba71071c9bee29da86292f2c06c2d92f0053fa5e1d2b1635d9

/-- The level-4 private key of scenario A, lane 1 (vector CL5). -/
def keyCL5 : KeyMaterial := keyMaterial 0x7d184306a8452a59ec35de35de703658252743e31f8aaa5491d8b08c1c8f1904 0

/-- The scalar of vector CL5. -/
def scalarCL5 : Scalar := 0x44198f1c8cb0d89154aa8a1fe3432725583670de35de35ec592a45a806431878

/-- The point of scenario A, lane 1 (vector PM8). -/
def pointA1 : Point :=
  { x := felt 0x2c5e6855129cc4f1954b5fbb6fe0ff1438c9a10fdc453ca78daed679afc08c72
    y := felt 0x6425ceda931ad286ba6f2234f65375a2ebdd705b28184175cf59c0be77c58655 }

/-- The encoding of that point (vector PE5). -/
def encA1 : Bytes 32 := bytes 32 0x5586c577bec059cf754118285b70ddeba27553f634226fba86d21a93dace2564

/-- The one block of the message "abc" (vector S1). -/
def blockAbc : Bytes 128 := bytesOf 128 ([0x61, 0x62, 0x63, 0x80] ++ copies 122 0 ++ [0x00, 0x18])

/-- The message "Hi There" with 56 bytes ee after it (vector H2, section 3.10). -/
def messageHi : MessageBuffer :=
  { bytes := bytesOf 64 ([0x48, 0x69, 0x20, 0x54, 0x68, 0x65, 0x72, 0x65] ++ copies 56 0xee), mlen := 8 }

/-! ### Well-formedness (R100): an ill-formed program for each check -/

/-- 33 operations do not fit the store. -/
theorem test_fits_refuses : Program.wellFormed (List.replicate 32 .shai ++ [.halt]) = false ∧
    Program.fits (List.replicate 32 .shai ++ [.halt]) = false := by decide

/-- A program that does not end in HALT. -/
theorem test_endsInHalt_refuses : Program.wellFormed [.chk, .mkd] = false ∧ Program.endsInHalt [.chk, .mkd] = false := by decide

/-- A HALT before the last operation. -/
theorem test_noEarlyHalt_refuses : Program.wellFormed [.chk, .halt, .halt] = false ∧
    Program.noEarlyHalt [.chk, .halt, .halt] = false := by decide

/-- The canonical program is well-formed; programs P6d and P6b have no HALT, the words of P6j are illegal. -/
theorem test_storeWellFormed : storeWellFormed romCanon = true ∧ storeWellFormed (assemble (List.replicate 32 .shai)) = false ∧
    storeWellFormed (assemble []) = false := by decide

/-! ### Decoding: op words written bit by bit (OPC P Z L, section 9 of spec/95_test_vectors.md) -/

theorem test_decode_chk : decode 0b00010000 = .ok (.chk) := by decide

theorem test_decode_shai : decode 0b00100000 = .ok (.shai) := by decide

theorem test_decode_shab : decode 0b00110000 = .ok (.shab) := by decide

theorem test_decode_hmac : decode 0b01000000 = .ok (.hmac) := by decide

theorem test_decode_mkd : decode 0b01010000 = .ok (.mkd) := by decide

theorem test_decode_ckd : decode 0b01101011 = .ok (.ckd .two 3) := by decide

theorem test_decode_ckd_lane_one : decode 0b01100010 = .ok (.ckd .one 2) := by decide

theorem test_decode_clamp : decode 0b01111000 = .ok (.clamp .two) := by decide

theorem test_decode_pmul : decode 0b10000000 = .ok (.pmul .one) := by decide

theorem test_decode_penc : decode 0b10011000 = .ok (.penc .two) := by decide

theorem test_decode_bind : decode 0b10100000 = .ok (.bind .one) := by decide

theorem test_decode_halt : decode 0b11110000 = .ok (.halt) := by decide

/-- Illegal words of section 9: unassigned opcodes, Z = 1, P = 1 and L not 0 where they must be 0. -/
theorem test_decode_illegal : decode 0x00 = .error .unassignedOpcode ∧ decode 0xD8 = .error .unassignedOpcode ∧
    decode 0x6C = .error .zBitSet ∧ decode 0xA4 = .error .zBitSet ∧ decode 0x18 = .error .laneBitSet ∧
    decode 0xF8 = .error .laneBitSet ∧ decode 0x7B = .error .levelBitsSet ∧ decode 0x21 = .error .levelBitsSet := by decide

/-- The words of CKD 2,1 and HALT as the opcode table numbers them, and a word the decoder refuses. -/
theorem test_decodeTableWord : decodeTableWord 8 0x69 = some (.ckd .two 1) ∧ decodeTableWord 8 0xF0 = some .halt ∧
    decodeTableWord 8 0x44 = none := by decide

/-- A listing in the assembler's form (R96). -/
theorem test_listing : Instr.listing (.ckd .two 3) = "CKD 2,3" ∧ Instr.listing (.bind .one) = "BIND 1" := by decide

/-! ### Functions -/

/-- Section 2.1: the word functions. -/
theorem test_word_functions :
    ch 0x0123456789abcdef 0xfedcba9876543210 0x0f1e2d3c4b5a6978 = 0x0e1c281842502010 ∧
    maj 0x0123456789abcdef 0xfedcba9876543210 0x0f1e2d3c4b5a6978 = 0x0f1e2d3c4b5a6978 ∧
    bigSigma0 0x0123456789abcdef = 0xb7c57a100c7ec1ab ∧ bigSigma1 0x0123456789abcdef = 0x7703112333475567 ∧
    smallSigma0 0x0123456789abcdef = 0x6f92c77c6c4f1aa1 ∧ smallSigma1 0x0123456789abcdef = 0x70a3460dbbd4317a := by decide

/-- PM1: a sum that wraps, a difference below 0, a product, an inverse, and the base point on the curve. -/
theorem test_field : fAdd (felt (P25519 - 1)) (felt 1) = felt 0 ∧ fSub (felt 0) (felt 1) = felt (P25519 - 1) ∧
    fMul (felt baseXValue) (felt baseYValue) = felt 0x67875f0fd78b766566ea4e8e64abe37d20f09f80775152f56dde8ab3a5b7dda3 ∧
    fInv (felt baseXValue) = felt 0x5272fb06866a6cd6a133e3762c993863943c29930c8453b46731350a14b947df ∧
    onCurve basePoint = true := by decide +kernel

/-- PM4: the sum of the base point with itself. -/
theorem test_edAdd : edAdd basePoint basePoint =
    { x := felt 0x36ab384c9f5a046c3d043b7d1833e7ac080d8e4515d7a45f83c5a14e2843ce0e
      y := felt 0x2260cdf3092329c21da25ee8c9a21f5697390f51643851560e5f46ae6af8a3c9 } := by decide +kernel

/-- PM9: the two extended formulas on the base point give these different quadruples. -/
theorem test_extended :
    (extAdd (toExt basePoint) (toExt basePoint)).x = felt 0x3b6f8891960f6ad45776d1e1213c1bd9de44f888163a76921515e6cf9f3fd67e ∧
    (extDbl (toExt basePoint)).t = felt 0x18247dc974b59c9540e4564048a87e0fa362dabfedf0bb190eb34e071b4d4999 := by
  decide +kernel

/-! ### Operations -/

/-- S11: SHAI from an unwritten H gives IV and does not write BLK. -/
theorem test_shai : (after (exec .shai busy)).h = some initialHash ∧ (after (exec .shai busy)).blk = none ∧
    (after (exec .shai busy)).upc = 1 := by decide

/-- S1 and S11: SHAB on the block of "abc". -/
theorem test_shab : (after (exec .shab { busy with h := some initialHash, blk := some blockAbc })).h = some
    { w0 := 0xddaf35a193617aba, w1 := 0xcc417349ae204131, w2 := 0x12e6fa4e89a97ea2, w3 := 0x0a9eeee64b55d39a,
      w4 := 0x2192992a274fc1a8, w5 := 0x36ba3c23a3feebbd, w6 := 0x454d4423643ce80e, w7 := 0x2a9ac94fa54ca49f } := by
  decide +kernel

/-- S11: SHAB with H unwritten: STATUS = 0x13, and BLK is wiped. -/
theorem test_shab_seq : hostRead 0x2 (after (exec .shab { busy with blk := some blockAbc })) = 0x13 ∧
    (after (exec .shab { busy with blk := some blockAbc })).blk = none := by decide

/-- H2: key of 20 bytes 0b, message "Hi There"; the bytes at and after MLEN are not read (H10). -/
theorem test_hmac : (after (exec .hmac { busy with k0 := some (paddedKey (copies 20 0x0b)), mbuf := some messageHi })).dig =
    some (bytes 64 (2 ^ 256 * 0x87aa7cdea5ef619d4ff0b4241a1d6cb02379f4e2ce4ec2787ad0b30545e17cde +
      0xdaa833b7d6b8a702038b274eaea3f4e4be9d914eeb61f1702e696c203a126854)) := by
  decide +kernel

/-- H10: HMAC with MBUF unwritten. -/
theorem test_hmac_seq : hostRead 0x2 (after (exec .hmac { busy with k0 := some (paddedKey []) })) = 0x13 := by decide

/-- M1: MKD on the zero seed. -/
theorem test_mkd : (after (exec .mkd (withFrame busy frameA))).km0 = some masterA := by decide +kernel

/-- K6: MKD with INCNT = 159 reads an unwritten view. -/
theorem test_mkd_seq : hostRead 0x2 (after (exec .mkd (withFrame busy (frameA.take 159)))) = 0x13 := by decide +kernel

/-- K1: CKD 1,0 with index 44. -/
theorem test_ckd : (after (exec (.ckd .one 0) (withKM0 (withFrame busy frameA) masterA))).lane1.km1 = some childA := by
  decide +kernel

/-- K6: an index of 2^31 with the parent written is SHAPE, with the parent unwritten SEQ. -/
theorem test_ckd_shape :
    hostRead 0x2 (after (exec (.ckd .two 3) { withFrame busy (frameIndex 0x80000000) with
      lane2 := { LaneRegs.reset with km3 := some masterA } })) = 0x07 ∧
    hostRead 0x2 (after (exec (.ckd .two 3) (withFrame busy (frameIndex 0x80000000)))) = 0x13 := by decide +kernel

/-- CL5: the key clamped; CL2: all ones. -/
theorem test_clamp : (after (exec (.clamp .one) { busy with lane1 := { LaneRegs.reset with km4 := some keyCL5 } })).lane1.sc =
      some scalarCL5 ∧
    clampScalar (bytesOf 32 (copies 32 0xff)) = 0x7ffffffffffffffffffffffffffffffffffffffffffffffffffffffffffffff8 := by
  decide +kernel

/-- CLAMP of a written scalar: write-once. -/
theorem test_clamp_seq : hostRead 0x2 (after (exec (.clamp .one)
    { busy with lane1 := { LaneRegs.reset with km4 := some keyCL5, sc := some scalarCL5 } })) = 0x13 := by decide

/-- PM5 and PM10: PMUL 2 of the scalar 2^254. -/
theorem test_pmul : (after (exec (.pmul .two) { busy with lane2 := { LaneRegs.reset with sc := some (BitVec.ofNat 256 (2 ^ 254)) } })).lane2.pt =
    some { x := felt 0x055f070d6c15fb0d96c033b175f5e2c810ede0fb19fb128f251037f7cf4e861d
           y := felt 0x511144a03a99b8559991e1b02adb476f022f82391bad83787c52af2c97473e69 } := by decide +kernel

/-- PM10: PMUL 2 never reads lane 1. -/
theorem test_pmul_seq : hostRead 0x2 (after (exec (.pmul .two)
    { busy with lane1 := { LaneRegs.reset with sc := some scalarCL5 } })) = 0x13 := by decide

/-- PE5: an even x. -/
theorem test_penc : (after (exec (.penc .one) { busy with lane1 := { LaneRegs.reset with pt := some pointA1 } })).lane1.enc =
    some encA1 := by decide +kernel

/-- PE3: the same y with an odd x; PE10: the largest y. -/
theorem test_encode : encodePoint (edNeg basePoint) = bytes 32 0x58666666666666666666666666666666666666666666666666666666666666e6 ∧
    encodePoint { x := felt 0, y := felt (P25519 - 1) } =
      bytes 32 0xecffffffffffffffffffffffffffffffffffffffffffffffffffffffffffff7f := by decide +kernel

/-- T17: BIND 1 of equal keys. -/
theorem test_bind : (after (exec (.bind .one) { withFrame busy frameA with lane1 := { LaneRegs.reset with enc := some encA1 } })).lane1.bound =
    true := by decide +kernel

/-- T17: BIND 2 of keys that differ: STATUS = 0x0B, BOUND[2] unchanged. -/
theorem test_bind_unsat : hostRead 0x2 (after (exec (.bind .two)
      { withFrame busy frameA with lane2 := { LaneRegs.reset with enc := some encA1 } })) = 0x0B ∧
    (after (exec (.bind .two) { withFrame busy frameA with lane2 := { LaneRegs.reset with enc := some encA1 } })).lane2.bound =
      false := by decide +kernel

/-- T17: CHK with every index 0x7fffffff passes, with the last one 0xffffffff it is SHAPE. -/
theorem test_chk : (after (exec .chk (withFrame busy (frameIndex 0x7fffffff)))).upc = 1 ∧
    hostRead 0x2 (after (exec .chk (withFrame busy (frameIndex 0xffffffff)))) = 0x07 := by decide +kernel

/-- T17: CHK with INCNT = 0, 159 and 161. -/
theorem test_chk_length : hostRead 0x2 (after (exec .chk busy)) = 0x07 ∧
    hostRead 0x2 (after (exec .chk (withFrame busy (frameA.take 159)))) = 0x07 ∧
    hostRead 0x2 (after (exec .chk { withFrame busy frameA with incnt := 161 })) = 0x07 := by decide +kernel

/-- Both lanes bound. -/
def bothBound : State :=
  { busy with lane1 := { LaneRegs.reset with bound := true }, lane2 := { LaneRegs.reset with bound := true } }

/-- T17: HALT with both bindings: STATUS = 0x02, the lines DONE and SAT. -/
theorem test_halt : hostRead 0x2 (after (exec .halt bothBound)) = 0x02 ∧ (after (exec .halt bothBound)).doneLine = true ∧
    (after (exec .halt bothBound)).satLine = true := by decide

/-- T17: HALT with one binding: STATUS = 0x1B, SAT = 0, BOUND[1] still set. -/
theorem test_halt_unbound : hostRead 0x2 (after (exec .halt { bothBound with lane2 := LaneRegs.reset })) = 0x1B ∧
    (after (exec .halt { bothBound with lane2 := LaneRegs.reset })).satLine = false ∧
    (after (exec .halt { bothBound with lane2 := LaneRegs.reset })).lane1.bound = true := by decide

/-- P6d, its last step: SHAI at index 31 runs off the end. -/
theorem test_run_off : hostRead 0x2 (after (step { busy with upc := 31, prog := assemble (List.replicate 32 .shai) })) = 0x0F ∧
    hostRead 0x3 (after (step { busy with upc := 31, prog := assemble (List.replicate 32 .shai) })) = 31 := by decide

/-- P6b: the unprogrammed word. -/
theorem test_illegal_word : hostRead 0x2 (after (step { busy with prog := assemble [] })) = 0x0F := by decide

/-- Section 10, rows 2, 6, 13 and 18: a push, START, the 161st byte, CLEAR in a run. -/
theorem test_host : hostRead 0x4 (hostWrite 0x0 0xaa State.reset) = 1 ∧ hostRead 0x2 (hostWrite 0x1 0x01 State.reset) = 0x01 ∧
    hostRead 0x4 (hostWrite 0x0 0x00 (withFrame State.reset frameA)) = 161 ∧
    hostWrite 0x1 0x02 (withFrame busy frameA) = State.reset := by decide +kernel

/-- The instruction placed by `withFetchWord` is the one the next step runs. -/
theorem test_withFetchWord : step (State.reset.withFetchWord 8 0x20) = exec .shai (State.reset.withFetchWord 8 0x20) := rfl

/-! ### Witnesses: for every statement with hypotheses, a state and operands that meet them -/

/-- DecodeFollowsTheOpcodeMap: a word with lane and level bits that matches its row, and a word that matches none. -/
theorem witness_opcode_map : (∃ r ∈ opcodeRows, (0x6B : Byte) &&& r.mask = r.value) ∧ ∀ r ∈ opcodeRows, (0x6C : Byte) &&& r.mask ≠ r.value := by
  decide

/-- DecodeInvertsEncode: a word the decoder accepts. -/
theorem witness_decode_inverts : decode 0x6B = .ok (.ckd .two 3) := by decide

/-- IllegalWordsRaiseIllop: a run at an illegal word, the last of the store, with no turn listed and with the sequencer's. -/
theorem witness_illegal_word : ({ busy with upc := 31 }.runState = .busy ∧ { busy with upc := 31 }.agenda = [] ∧
      { busy with upc := 31 }.fetchOp = .error .unassignedOpcode) ∧
    ({ busy with upc := 31, agenda := [.sequencer] }.runState = .busy ∧
      { busy with upc := 31, agenda := [.sequencer] }.agenda = .sequencer :: [] ∧
      { busy with upc := 31, agenda := [.sequencer] }.fetchOp = .error .unassignedOpcode) := by decide

/-- StepRunsTheDecodedOperation: the sequencer in a run and outside it, with its turn listed and not, and each other turn. -/
theorem witness_step : (busy.runState = .busy ∧ busy.agenda = [] ∧ decode (busy.prog[busy.upc.toNat]) = .ok .chk) ∧
    ({ busy with upc := 18, agenda := [.sequencer] }.runState = .busy ∧
      { busy with upc := 18, agenda := [.sequencer] }.agenda = .sequencer :: [] ∧ decode (busy.prog[18]) = .ok .halt) ∧
    (State.reset.runState ≠ .busy ∧ State.reset.agenda = []) ∧
    ({ State.reset with agenda := [.sequencer, .resetInput] }.runState ≠ .busy ∧
      { State.reset with agenda := [.sequencer, .resetInput] }.agenda = .sequencer :: [.resetInput]) ∧
    { State.reset with agenda := [.host (.write 0x1 0x01)] }.agenda = .host (.write 0x1 0x01) :: [] ∧
    { busy with agenda := [.host (.read 0x2), .sequencer] }.agenda = .host (.read 0x2) :: [.sequencer] ∧
    { busy with agenda := [.resetInput] }.agenda = .resetInput :: [] := by decide

/-- ShaiInitialisesTheChainingState: the last index at which it completes. -/
theorem witness_shai : { busy with upc := 30 }.upc ≠ 31 := by decide

/-- A state in which the SHA and HMAC unit registers are written. -/
def unitBusy : State :=
  { busy with h := some initialHash, blk := some blockAbc, k0 := some (paddedKey seedKey), mbuf := some messageHi, upc := 30 }

/-- ShabCompressesTheBlock: both clauses, each unwritten register alone. -/
theorem witness_shab : (unitBusy.h = some initialHash ∧ unitBusy.blk = some blockAbc ∧ unitBusy.upc ≠ 31) ∧
    ({ unitBusy with h := none }.h = none ∧ { unitBusy with blk := none }.blk = none) := ⟨⟨rfl, rfl, by decide⟩, rfl, rfl⟩

/-- HmacComputesHmacSha512: both clauses. -/
theorem witness_hmac : (unitBusy.k0 = some (paddedKey seedKey) ∧ unitBusy.mbuf = some messageHi ∧ unitBusy.upc ≠ 31) ∧
    ({ unitBusy with k0 := none }.k0 = none ∧ { unitBusy with mbuf := none }.mbuf = none) := ⟨⟨rfl, rfl, by decide⟩, rfl, rfl⟩

/-- MkdDerivesTheMasterKey: a valid frame with KM0 unwritten; a frame of 159 bytes; KM0 written. -/
theorem witness_mkd : ((withFrame busy frameA).seedView = some (bytesOf 64 (copies 64 0)) ∧ (withFrame busy frameA).km0 = none ∧
      (withFrame busy frameA).upc ≠ 31) ∧
    (withFrame busy (frameA.take 159)).seedView = none ∧ (withKM0 (withFrame busy frameA) masterA).km0 ≠ none := by decide +kernel

/-- A run with a frame whose indices are all 0x7fffffff but for the last one, and the parents of CKD p,0 and CKD 2,3 written. -/
def ckdBusy (last : Nat) : State :=
  { withFrame busy (frameIndex last) with km0 := some masterA, lane2 := { LaneRegs.reset with km3 := some childA } }

/-- CkdDerivesTheChildKey: the largest admitted index; each SEQ clause; the smallest index that is not admitted. -/
theorem witness_ckd :
    ((ckdBusy 0x7fffffff).parentKM .two 3 = some childA ∧ (ckdBusy 0x7fffffff).pathView .two 3 = some 0x7fffffff ∧
      (ckdBusy 0x7fffffff).childKM .two 3 = none ∧ (0x7fffffff : PathIndex).toNat < 2 ^ 31 ∧ (ckdBusy 0x7fffffff).upc ≠ 31) ∧
    ((ckdBusy 0).parentKM .one 1 = none ∧ { ckdBusy 0 with incnt := 161 }.pathView .one 0 = none ∧
      (ckdBusy 0).childKM .two 2 ≠ none) ∧
    ((ckdBusy 0x80000000).parentKM .two 3 = some childA ∧ (ckdBusy 0x80000000).pathView .two 3 = some 0x80000000 ∧
      (ckdBusy 0x80000000).childKM .two 3 = none ∧ 2 ^ 31 ≤ (0x80000000 : PathIndex).toNat) := by decide +kernel

/-- A run in which lane 1 is derived as far as given. -/
def laneBusy (r : LaneRegs) : State := { withFrame busy frameA with lane1 := r }

/-- ClampWritesTheClampedScalar: completion, no key, a written scalar. -/
theorem witness_clamp :
    (((laneBusy { LaneRegs.reset with km4 := some keyCL5 }).lane .one).km4 = some keyCL5 ∧
      ((laneBusy { LaneRegs.reset with km4 := some keyCL5 }).lane .one).sc = none ∧ (laneBusy LaneRegs.reset).upc ≠ 31) ∧
    ((laneBusy LaneRegs.reset).lane .one).km4 = none ∧
    ((laneBusy { LaneRegs.reset with sc := some scalarCL5 }).lane .one).sc ≠ none := by decide

/-- PmulWritesTheMultipleOfBase: completion with the largest scalar, no scalar, a written point. -/
theorem witness_pmul :
    (((laneBusy { LaneRegs.reset with sc := some (BitVec.ofNat 256 (2 ^ 255 - 1)) }).lane .one).sc = some (BitVec.ofNat 256 (2 ^ 255 - 1)) ∧
      (BitVec.ofNat 256 (2 ^ 255 - 1)).toNat < 2 ^ 255 ∧
      ((laneBusy { LaneRegs.reset with sc := some (BitVec.ofNat 256 (2 ^ 255 - 1)) }).lane .one).pt = none ∧
      (laneBusy LaneRegs.reset).upc ≠ 31) ∧
    ((laneBusy LaneRegs.reset).lane .one).sc = none ∧
    ((laneBusy { LaneRegs.reset with pt := some basePoint }).lane .one).pt ≠ none := by decide +kernel

/-- PmulChecksTheUnstatedMultiple: the smallest scalar without a stated multiple. -/
theorem witness_pmul_unstated :
    ((laneBusy { LaneRegs.reset with sc := some (BitVec.ofNat 256 (2 ^ 255)) }).lane .one).sc = some (BitVec.ofNat 256 (2 ^ 255)) ∧
    2 ^ 255 ≤ (BitVec.ofNat 256 (2 ^ 255)).toNat ∧
    ((laneBusy { LaneRegs.reset with sc := some (BitVec.ofNat 256 (2 ^ 255)) }).lane .one).pt = none ∧
    (laneBusy LaneRegs.reset).upc ≠ 31 := by decide +kernel

/-- ExtendedLoopEqualsAffineLoop and ScalarMulBaseIsTheMultipleOfBase: the largest scalar of their range. -/
theorem witness_extended_loop : (BitVec.ofNat 256 (2 ^ 255 - 1)).toNat < 2 ^ 255 := by decide +kernel

/-- PencWritesTheEncoding: completion, no point, a written encoding. -/
theorem witness_penc :
    (((laneBusy { LaneRegs.reset with pt := some pointA1 }).lane .one).pt = some pointA1 ∧
      ((laneBusy { LaneRegs.reset with pt := some pointA1 }).lane .one).enc = none ∧ (laneBusy LaneRegs.reset).upc ≠ 31) ∧
    ((laneBusy LaneRegs.reset).lane .one).pt = none ∧
    ((laneBusy { LaneRegs.reset with enc := some encA1 }).lane .one).enc ≠ none := by decide +kernel

/-- BindComparesTheKeys: equal keys with BOUND[1] already set, keys that differ, no encoding, an invalid frame. -/
theorem witness_bind :
    (((laneBusy { LaneRegs.reset with enc := some encA1, bound := true }).lane .one).enc = some encA1 ∧
      (laneBusy { LaneRegs.reset with enc := some encA1, bound := true }).pubkeyView .one = some encA1 ∧
      (laneBusy LaneRegs.reset).upc ≠ 31) ∧
    (((laneBusy { LaneRegs.reset with enc := some encA1 }).lane .one).enc = some encA1 ∧
      ∃ k, (laneBusy LaneRegs.reset).pubkeyView .one = some k ∧ k = encA1) ∧
    ((laneBusy { LaneRegs.reset with enc := some (encodePoint basePoint) }).pubkeyView .one = some encA1 ∧
      encodePoint basePoint ≠ encA1) ∧
    ((laneBusy LaneRegs.reset).lane .one).enc = none ∧
    { laneBusy LaneRegs.reset with incnt := 159 }.pubkeyView .one = none :=
  ⟨by decide +kernel, ⟨rfl, encA1, by decide +kernel, rfl⟩, by decide +kernel, rfl, by decide +kernel⟩

/-- ChkChecksTheInputShape: every index at its largest admitted value; 159 and 161 bytes; one index at 2^31. -/
theorem witness_chk :
    ((withFrame busy (frameIndex 0x7fffffff)).incnt = 160 ∧
      (∀ p i, ∃ v, (withFrame busy (frameIndex 0x7fffffff)).pathView p i = some v ∧ v.toNat < 2 ^ 31) ∧
      (withFrame busy (frameIndex 0x7fffffff)).upc ≠ 31) ∧
    ((withFrame busy (frameA.take 159)).incnt ≠ 160 ∧ { withFrame busy frameA with incnt := 161 }.incnt ≠ 160) ∧
    ((withFrame busy (frameIndex 0x80000000)).incnt = 160 ∧
      (withFrame busy (frameIndex 0x80000000)).pathView .two 3 = some 0x80000000 ∧ 2 ^ 31 ≤ (0x80000000 : PathIndex).toNat) := by
  refine ⟨⟨by decide +kernel, fun p i => ⟨0x7fffffff, ?_, by decide⟩, by decide⟩, by decide +kernel, by decide +kernel⟩
  revert i
  cases p <;> decide +kernel

/-- HaltDeliversTheVerdict: both bound; one not bound. -/
theorem witness_halt : (bothBound.lane1.bound = true ∧ bothBound.lane2.bound = true) ∧
    { bothBound with lane2 := LaneRegs.reset }.lane2.bound = false := by decide

/-- SeqChecksAreComplete: an operation whose checks fail, one whose checks pass, and a frame of 159 bytes. -/
theorem witness_seq_checks : seqChecksPass .shab busy = false ∧
    (seqChecksPass .shab unitBusy = true ∧ unitBusy.err ≠ .raised .seq ∧ ∃ t, exec .shab unitBusy = .next t) ∧
    (withFrame busy (frameA.take 159)).incnt ≠ 160 := ⟨rfl, ⟨rfl, by decide, _, rfl⟩, by decide +kernel⟩

/-- RunningOffTheEndRaisesIllop: an operation that completes at index 30. -/
theorem witness_run_off : busy.runState = .busy ∧ (30 : BitVec 5) ≠ 31 ∧
    ∃ t, exec .shai { busy with upc := 30 } = .next t ∧ t.runState = .busy := ⟨rfl, by decide, _, rfl, rfl⟩

/-- FaultingOperationLeavesOnlyTheFault: an operation that faults. -/
theorem witness_faulting : busy.runState = .busy ∧ ∃ t, exec .shab busy = .next t ∧ t.runState = .fail := ⟨rfl, _, rfl, rfl⟩

/-- R227: running off the end with BIND 1 leaves BOUND[1] set in FAIL. -/
theorem test_run_off_keeps_bound :
    hostRead 0x2 (after (exec (.bind .one) { laneBusy { LaneRegs.reset with enc := some encA1 } with upc := 31 })) = 0x0F ∧
    (after (exec (.bind .one) { laneBusy { LaneRegs.reset with enc := some encA1 } with upc := 31 })).lane1.bound = true := by
  decide +kernel

/-- CompletedOperationWritesOnlyItsRow: an operation that completes. -/
theorem witness_completed : busy.runState = .busy ∧ ∃ t, exec .shai busy = .next t ∧ t.runState = .busy := ⟨rfl, _, rfl, rfl⟩

/-- DerivedRegistersAreWriteOnce: written registers of each kind, and an operation that completes. -/
theorem witness_write_once :
    (∃ t, exec .shai (ckdBusy 0) = .next t ∧ t.runState = .busy) ∧ (ckdBusy 0).km0 ≠ none ∧ (ckdBusy 0).childKM .two 2 ≠ none ∧
    ((laneBusy { LaneRegs.reset with sc := some scalarCL5 }).lane .one).sc ≠ none ∧
    ((laneBusy { LaneRegs.reset with pt := some basePoint }).lane .one).pt ≠ none ∧
    ((laneBusy { LaneRegs.reset with enc := some encA1 }).lane .one).enc ≠ none ∧
    unitBusy.k0 = some (paddedKey seedKey) ∧ unitBusy.mbuf = some messageHi ∧ unitBusy.upc ≠ 31 :=
  ⟨⟨_, rfl, rfl⟩, by decide +kernel⟩

/-- ResetAndClearGiveTheStatedValues: CLEAR of a run with written registers. -/
theorem witness_reset : unitBusy ≠ State.reset ∧
    ∃ t, t = unitBusy.clear ∧ (t = State.reset ∨ t = unitBusy.clear ∨ t = resetInput unitBusy) :=
  ⟨by decide, _, rfl, .inr (.inl rfl)⟩

/-- StateChangesOnlyByItsTransitions: one step for each transition of R37. -/
theorem witness_transitions :
    (∃ t, step { State.reset with agenda := [.host (.write 0x1 0x01)] } = .next t ∧ t.runState = .busy) ∧
    (∃ t, step { bothBound with upc := 18 } = .next t ∧ t.runState = .sat) ∧
    (∃ t, step busy = .next t ∧ t.runState = .fail) ∧
    (∃ t, step { busy with agenda := [.host (.write 0x1 0x02)] } = .next t ∧ t.runState = .idle) ∧
    ∃ t, step { busy with agenda := [.resetInput] } = .next t ∧ t.runState = .idle :=
  ⟨⟨_, rfl, rfl⟩, ⟨_, rfl, rfl⟩, ⟨_, rfl, rfl⟩, ⟨_, rfl, rfl⟩, _, rfl, rfl⟩

/-- DinPushesOneByte: the last byte that is stored, the first that is dropped, and a push in a run. -/
theorem witness_din : (State.reset.runState = .idle ∧ { State.reset with incnt := 159 }.incnt.val < 160) ∧
    160 ≤ { State.reset with incnt := 160 }.incnt.val ∧ busy.runState ≠ .idle := by decide

/-- StartBeginsARunOnlyInIdle: both clauses. -/
theorem witness_start : State.reset.runState = .idle ∧ busy.runState ≠ .idle := by decide

/-- OtherHostAccessesDoNothing: a value of CTRL and offsets at the ends of their ranges. -/
theorem witness_host_nothing : (0x03 : Byte) ≠ 0x01 ∧ (0x03 : Byte) ≠ 0x02 ∧ 0x2 ≤ (0x2 : Nat) ∧ 0x4 < (0x5 : Nat) := by decide

/-- HostCannotDisturbARun: a push in a run. -/
theorem witness_host_run : busy.runState ≠ .idle ∧ HostAction.write 0x0 0xdd ≠ .write 0x1 0x02 := by decide

/-- HostReadsRevealNoSecret: two different states that agree in STATE, ERR, UPC and INCNT. -/
theorem witness_no_secret : ckdBusy 0 ≠ withFrame busy frameA ∧ (ckdBusy 0).runState = (withFrame busy frameA).runState ∧
    (ckdBusy 0).err = (withFrame busy frameA).err ∧ (ckdBusy 0).upc = (withFrame busy frameA).upc ∧
    (ckdBusy 0).incnt = (withFrame busy frameA).incnt := by decide +kernel

/-- The frame of 159 bytes keeps the frame invariant. -/
theorem frameInv_159 : FrameInv { State.reset with inbuf := (withFrame busy (frameA.take 159)).inbuf, incnt := 159 } := by
  refine ⟨by decide +kernel, by decide +kernel, fun a => ?_⟩
  by_cases h : a < 160
  · have key : ∀ b : Fin 160, ((withFrame busy (frameA.take 159)).inbuf.read b.val).isSome = true ↔ b.val < 159 ∧ b.val < 160 := by
      decide +kernel
    exact key ⟨a, h⟩
  · have hn : Memory.read (withFrame busy (frameA.take 159)).inbuf a = none :=
      read_eq_none_of_inFrame (by omega) (by decide +kernel)
    constructor
    · intro hs
      rw [show Memory.read _ a = none from hn] at hs
      cases hs
    · omega

/-- EveryStepKeepsTheFrameInvariant: the push of the 160th byte. -/
theorem witness_frame_step : ∃ s t : State, FrameInv s ∧ step s = .next t ∧ t.incnt = 160 :=
  ⟨{ State.reset with inbuf := (withFrame busy (frameA.take 159)).inbuf, incnt := 159, agenda := [.host (.write 0x0 0x00)] }, _,
    ⟨frameInv_159.canonical, frameInv_159.inSpace, frameInv_159.filled⟩, rfl, rfl⟩

/-- The control invariant in a run with both lanes bound. -/
theorem controlInv_bothBound : ControlInv { bothBound with upc := 18 } :=
  ⟨by decide, fun h => absurd rfl h, by decide, by decide⟩

/-- EveryStepKeepsTheControlInvariant: the step from a run to SAT. -/
theorem witness_control_step : ∃ s t : State, ControlInv s ∧ step s = .next t ∧ t.runState = .sat :=
  ⟨{ bothBound with upc := 18 }, _, controlInv_bothBound, rfl, rfl⟩

/-- EveryStepKeepsTheValueInvariant: a run in which lane 1 holds a scalar, a point and its encoding. -/
theorem valueInv_lane : ValueInv (laneBusy
    { LaneRegs.reset with sc := some scalarCL5, pt := some basePoint, enc := some (encodePoint basePoint) }) := by
  constructor
  · intro p v h
    cases p
    · cases h
      decide
    · cases h
  · intro p q h
    cases p
    · cases h
      decide +kernel
    · cases h
  · intro p e h
    cases p
    · cases h
      exact ⟨basePoint, by decide +kernel, rfl⟩
    · cases h

/-- EveryStepKeepsTheValueInvariant: SHAI from that state keeps lane 1 as it is. -/
theorem witness_value_step : ∃ s t : State, ValueInv s ∧ step s = .next t ∧ (t.lane .one).pt = some basePoint :=
  ⟨{ laneBusy { LaneRegs.reset with sc := some scalarCL5, pt := some basePoint, enc := some (encodePoint basePoint) } with
      prog := assemble [.shai] }, _, ⟨valueInv_lane.scalar, valueInv_lane.point, valueInv_lane.encoding⟩, rfl, rfl⟩

/-- What an index of a list of cells reads as. -/
theorem read_cellsFrom : ∀ (l : List Byte) (a i : Nat), Memory.read (cellsFrom a l) (a + i) = l[i]?
  | [], _, _ => rfl
  | b :: l, a, 0 => by simp [cellsFrom, Memory.read]
  | b :: l, a, i + 1 => by
    have ih := read_cellsFrom l (a + 1) i
    rw [show a + 1 + i = a + (i + 1) by omega] at ih
    simp [cellsFrom, Memory.read, ih]

/-- What a range of a list of cells reads as. -/
theorem readRange_cellsFrom (l : List Byte) : ∀ (n a : Nat), a + n ≤ l.length →
    Memory.readRange (cellsFrom 0 l) a n = some (slice l a (a + n))
  | 0, a, _ => by simp [Memory.readRange, slice]
  | n + 1, a, h => by
    have hr := read_cellsFrom l 0 a
    rw [Nat.zero_add, List.getElem?_eq_getElem (by omega)] at hr
    have ih := readRange_cellsFrom l n (a + 1) (by omega)
    simp only [Memory.readRange, hr, ih, slice]
    rw [show a + 1 + n = a + (n + 1) by omega]
    conv_rhs => rw [List.drop_eq_getElem_cons (by simp; omega)]
    simp

/-- The seed of 64 zero bytes. -/
def zeroSeed : Bytes 64 := bytesOf 64 (copies 64 0)

/-- Both paths of vector T11, [44, 501, 0, 1] twice, and the zero seed. -/
def tailT11 : List Byte := serBE 32 0x0000002c000001f500000000000000010000002c000001f50000000000000001 ++ copies 64 0

/-- One level of that path. -/
def pathT11 : Level → PathIndex := fun l => if l = 0 then 44 else if l = 1 then 501 else if l = 2 then 0 else 1

/-- A run at HALT with both lanes bound, with the key `k` supplied for both lanes. -/
def haltOn (k : Bytes 32) : State := { withFrame bothBound (k.toList ++ (k.toList ++ tailT11)) with upc := 18 }

theorem frameBytes_haltOn (k : Bytes 32) (a n : Nat) (h : a + n ≤ 160) :
    (haltOn k).frameBytes a n = some (slice (k.toList ++ (k.toList ++ tailT11)) a (a + n)) := by
  have hl : (k.toList ++ (k.toList ++ tailT11)).length = 160 := by simp [tailT11]
  have hv : (haltOn k).frameValid = true := by simp [haltOn, withFrame, State.frameValid, hl]
  simp only [State.frameBytes, hv, if_true]
  exact readRange_cellsFrom _ n a (by omega)

/-- The views of that frame. -/
theorem views_haltOn (k : Bytes 32) : (haltOn k).seedView = some zeroSeed ∧
    (∀ p l, (haltOn k).pathView p l = some (pathT11 l)) ∧ ∀ p, (haltOn k).pubkeyView p = some k := by
  have drop_keys : ∀ a b, 64 ≤ a → slice (k.toList ++ (k.toList ++ tailT11)) a b = slice tailT11 (a - 64) (b - 64) := by
    intro a b h
    simp only [slice, List.take_append, List.drop_append, Vector.length_toList]
    rw [List.drop_eq_nil_of_le (by simp; omega), List.drop_eq_nil_of_le (by simp; omega)]
    simp only [List.nil_append, List.length_take, Vector.length_toList, Nat.sub_sub]
    by_cases hb : 64 ≤ b
    · rw [show a - (min b 32 + min (b - 32) 32) = a - 64 by omega]
    · rw [show b - (32 + 32) = 0 by omega]
      simp
  refine ⟨?_, ?_, ?_⟩
  · rw [State.seedView, frameBytes_haltOn k 96 64 (by omega), drop_keys _ _ (by omega)]
    decide +kernel
  · intro p l
    have hb : pathBase p + 4 * l.val + 4 ≤ 160 ∧ 64 ≤ pathBase p + 4 * l.val := by
      revert l
      cases p <;> decide
    rw [State.pathView, frameBytes_haltOn k _ 4 hb.1, drop_keys _ _ hb.2]
    revert l
    cases p <;> decide +kernel
  · have hk : bytesOf 32 k.toList = k := by
      rw [← Vector.toList_inj, toList_bytesOf (by simp)]
    intro p
    cases p
    · rw [State.pubkeyView, frameBytes_haltOn k 0 32 (by omega)]
      simp [slice, hk]
    · rw [State.pubkeyView, frameBytes_haltOn k 32 32 (by omega)]
      simp [slice, List.take_append, hk]

/-- A run at HALT with both lanes bound, on the frame of vector T11: the key is the one that the seed and the path derive. -/
def haltT11 : State := haltOn (derive zeroSeed pathT11)

/-- The soundness invariant in that state. -/
theorem soundInv_T11 : SoundInv haltT11 := by
  obtain ⟨hs, hp, hk⟩ := views_haltOn (derive zeroSeed pathT11)
  refine ⟨⟨by decide, fun h => absurd rfl h, nofun, nofun⟩, nofun, ?_, ?_, ?_, ?_, ?_⟩
  · intro p l k h
    have none_written : ∀ q : Lane, ∀ j : Level, (State.lane haltT11 q).child j = none := by
      intro q j
      revert j
      cases q <;> exact fun | 0 => rfl | 1 => rfl | 2 => rfl | 3 => rfl
    rw [State.childKM, none_written] at h
    cases h
  · intro p v h
    cases p <;> cases h
  · intro p q h
    cases p <;> cases h
  · intro p e h
    cases p <;> cases h
  · intro p _
    exact ⟨zeroSeed, pathT11, hs, fun l => ⟨hp p l, by revert l; decide⟩, hk p⟩

/-- EveryStepKeepsTheSoundnessInvariant and SatMeansBothKeysAreDerived: the step of HALT from that state ends in SAT. -/
theorem witness_sound : ∃ s t : State, SoundInv s ∧ step s = .next t ∧ core.run 1 s = .next t ∧ t.runState = .sat :=
  ⟨haltT11, _, soundInv_T11, rfl, rfl, rfl⟩

/-- EveryRunEndsWithin32Steps: a run at its first index. -/
theorem witness_run : busy.runState = .busy ∧ busy.agenda = [] := ⟨rfl, rfl⟩

/-- RomCanonGivesTheTabledVerdict: a run started on an empty frame. -/
theorem witness_rom : busy.started = true ∧ busy.prog = romCanon ∧ FrameInv busy :=
  ⟨by decide, rfl, rfl, rfl, fun a => by simp [busy, State.reset, Memory.read]⟩

/-- A run in which both lanes hold their level-4 key. -/
def clampBusy : State :=
  { busy with lane1 := { LaneRegs.reset with km4 := some keyCL5 }, lane2 := { LaneRegs.reset with km4 := some masterA } }

/-- LanesAreIndependent: CLAMP 2 and then CLAMP 1, a pair begun by lane 2. -/
theorem witness_lanes : laneOf? (.clamp .two) = some .two ∧ laneOf? (.clamp .one) = some .one ∧ Lane.two ≠ Lane.one ∧
    clampBusy.runState = .busy ∧
    ∃ t1 t2 : State, exec (.clamp .two) clampBusy = .next t1 ∧ t1.runState = .busy ∧ exec (.clamp .one) t1 = .next t2 ∧
      t2.runState = .busy := ⟨rfl, rfl, by decide, rfl, _, _, rfl, rfl, rfl, rfl⟩

/-- BitCodecIsInvertible: a list of eight bits, and the last bit of a byte string. -/
theorem witness_bits : (bytesOfBits [true, false, false, false, false, false, false, true] = some [0x81]) ∧ 1 < [(0 : Byte), 1].length ∧
    7 < 8 := by decide

/-- BigEndianCodecsAreInverse: the largest value and the last byte. -/
theorem witness_be : 0xffffffff < 2 ^ (8 * 4) ∧ 3 < 4 := by decide

/-- LittleEndianCodecsAreInverse: the largest value and the last byte. -/
theorem witness_le : 2 ^ 256 - 1 < 2 ^ 256 ∧ 31 < 32 := by decide

/-- ClampMasksTheLittleEndianKey: the ends of the range of copied bits. -/
theorem witness_clamp_bits : (3 ≤ 3 ∧ 3 ≤ 253) ∧ 3 ≤ 253 ∧ 253 ≤ 253 := by decide

/-- MessageScheduleFollowsTheRecurrence, and the stages of ShabCompressesTheBlock (t < 80): the ends of the ranges. -/
theorem witness_schedule : 15 < 16 ∧ 16 ≤ 16 ∧ 79 < 80 := by decide

/-- PaddingReachesWholeBlocks: a message of 111 bytes, with no zero byte of padding. -/
theorem witness_pad : 8 * (copies 111 0x61).length < 2 ^ 128 ∧ ((copies 111 0x61).length + 1 + 0 + 16) % 128 = 0 := by decide

/-- HmacSequenceEqualsHmacFunction: a key of exactly one block (H8). -/
theorem witness_hmac_key : (copies 128 0x01).length ≤ 128 := by simp

/-- FieldOperationsAreExact: an element other than 0 and its inverse (PM1). -/
theorem witness_inverse : felt 2 ≠ felt 0 ∧ fMul (felt 2) (felt ((P25519 + 1) / 2)) = felt 1 := by decide +kernel

/-- EdwardsAdditionIsComplete, EdwardsIdentityNegativeAndCommutativity and EdwardsAdditionIsAssociative: the base point and the
point of order 2. -/
theorem witness_points : onCurve basePoint = true ∧ onCurve { x := felt 0, y := felt (P25519 - 1) } = true := by decide +kernel

/-- ExtendedFormulasRepresentTheGroupLaw: quadruples with Z other than 1 that represent curve points (PM9). -/
theorem witness_quadruples : extValid (extDbl (toExt basePoint)) = true ∧ (extDbl (toExt basePoint)).z ≠ felt 1 ∧
    onCurve (toAffine (extDbl (toExt basePoint))) = true := by decide +kernel

/-- EncodingPacksTheSignBit: the last byte below the sign byte. -/
theorem witness_encoding_byte : 30 < 31 := by decide

/-- The bytes ee ff .. ff 7f of section 7: 2^255 - 18, not canonical. -/
def nonCanonical : Bytes 32 := bytes 32 0xeeffffffffffffffffffffffffffffffffffffffffffffffffffffffffffff7f

/-- NonCanonicalKeysNeverBind: that key supplied for lane 1, whose ENC is written. -/
theorem witness_non_canonical : P25519 ≤ le256 nonCanonical % 2 ^ 255 ∧
    ∃ s : State, ValueInv s ∧ (s.lane .one).enc ≠ none ∧ s.pubkeyView .one = some nonCanonical := by
  refine ⟨by decide +kernel, { withFrame busy (nonCanonical.toList ++ copies 128 0) with
    lane1 := { LaneRegs.reset with sc := some scalarCL5, pt := some basePoint, enc := some (encodePoint basePoint) } }, ?_, ?_, ?_⟩
  · exact ⟨valueInv_lane.scalar, valueInv_lane.point, valueInv_lane.encoding⟩
  · decide +kernel
  · decide +kernel

end Sys2Proof.Tests
end

section
/-! What a completed operation can do, said once: its checks passed, and its writes are those of its row (R36, R47). -/

namespace Sys2Proof.Machine

open Sys2Proof

/-! ### Peeling a check off an operation -/

theorem need_bind_eq_ok {α β : Type} {r : Option α} {f : α → Except FaultCode β} {b : β}
    (h : (need r >>= f) = .ok b) : ∃ v, r = some v ∧ f v = .ok b := by
  cases r with
  | none => cases h
  | some v => exact ⟨v, rfl, h⟩

theorem fresh_bind_eq_ok {α β : Type} {r : Option α} {f : Unit → Except FaultCode β} {b : β}
    (h : (fresh r >>= f) = .ok b) : r = none ∧ f () = .ok b := by
  cases r with
  | none => exact ⟨rfl, h⟩
  | some v => cases h

theorem check_bind_eq_ok {β : Type} {c : FaultCode} {p : Bool} {f : Unit → Except FaultCode β} {b : β}
    (h : (check c p >>= f) = .ok b) : p = true ∧ f () = .ok b := by
  cases p with
  | false => cases h
  | true => exact ⟨rfl, h⟩

theorem except_bind_eq_ok {ε α β : Type} {x : Except ε α} {f : α → Except ε β} {b : β}
    (h : (x >>= f) = .ok b) : ∃ a, x = .ok a ∧ f a = .ok b := by
  cases x with
  | error e => cases h
  | ok a => exact ⟨a, rfl, h⟩

/-! ### The writes of an operation -/

/-- `Writes i s u`: begun in `s`, every check of operation `i` passes, and `u` is `s` with the writes of `i` made, before
UPC advances (R36). HALT has no such end. -/
inductive Writes : Instr → State → State → Prop where
  | chk {s : State} (valid : s.frameValid = true)
      (admitted : (s.pathsAdmitted .one && s.pathsAdmitted .two) = true) : Writes .chk s s
  | shai {s : State} : Writes .shai s { s with h := some initialHash }
  | shab {s : State} {hin : Words8} {block : Bytes 128} (hash : s.h = some hin) (blk : s.blk = some block) :
      Writes .shab s { s with h := some (compress hin block) }
  | hmac {s : State} {k0 : Bytes 128} {m : MessageBuffer} (key : s.k0 = some k0) (message : s.mbuf = some m) :
      Writes .hmac s (s.hmacSeq k0 m)
  | mkd {s : State} {seed : Bytes 64} (view : s.seedView = some seed) (unwritten : s.km0 = none) :
      Writes .mkd s { s.loadHmac (paddedKey seedKey) (seedMessage seed) with
        km0 := some (splitDigest (hmacDigest (paddedKey seedKey) (seedMessage seed))) }
  | ckd {s : State} {p : Lane} {l : Level} {parent : KeyMaterial} {i : PathIndex} (above : s.parentKM p l = some parent)
      (view : s.pathView p l = some i) (unwritten : s.childKM p l = none) (admitted : indexAdmitted i = true) :
      Writes (.ckd p l) s
        ((s.loadHmac (paddedKey parent.cc.toList) (ckdMessage parent.key i)).setChildKM p l
          (splitDigest (hmacDigest (paddedKey parent.cc.toList) (ckdMessage parent.key i))))
  | clamp {s : State} {p : Lane} {k : KeyMaterial} (leaf : (s.lane p).km4 = some k) (unwritten : (s.lane p).sc = none) :
      Writes (.clamp p) s (s.setSC p (clampScalar k.key))
  | pmul {s : State} {p : Lane} {v : Scalar} {q : Point} (scalar : (s.lane p).sc = some v)
      (unwritten : (s.lane p).pt = none) (multiple : checkedMulBase v = .ok q) : Writes (.pmul p) s (s.setPT p q)
  | penc {s : State} {p : Lane} {q : Point} (point : (s.lane p).pt = some q) (unwritten : (s.lane p).enc = none) :
      Writes (.penc p) s (s.setENC p (encodePoint q))
  | bind {s : State} {p : Lane} {e : Bytes 32} (computed : (s.lane p).enc = some e)
      (supplied : s.pubkeyView p = some e) : Writes (.bind p) s (s.setBound p)

/-- An operation whose checks pass ends with its writes made and UPC advanced. -/
theorem Writes.exec_eq {i : Instr} {s u : State} (h : Writes i s u) : exec i s = .next u.advance := by
  cases h with
  | chk valid admitted => simp only [exec, execChk, valid, admitted, check_true, except_bind_ok, complete_ok]
  | shai => rfl
  | shab hash blk => simp only [exec, execShab, hash, blk, need_some, except_bind_ok, complete_ok]
  | hmac key message => simp only [exec, execHmac, key, message, need_some, except_bind_ok, complete_ok]
  | mkd view unwritten =>
    simp only [exec, execMkd, view, unwritten, need_some, fresh_none, except_bind_ok, complete_ok]
  | ckd above view unwritten admitted =>
    simp only [exec, execCkd, above, view, unwritten, admitted, need_some, fresh_none, check_true, except_bind_ok,
      complete_ok]
  | clamp leaf unwritten =>
    simp only [exec, execClamp, leaf, unwritten, need_some, fresh_none, except_bind_ok, complete_ok]
  | pmul scalar unwritten multiple =>
    simp only [exec, execPmul, scalar, unwritten, multiple, need_some, fresh_none, except_bind_ok, complete_ok]
  | penc point unwritten =>
    simp only [exec, execPenc, point, unwritten, need_some, fresh_none, except_bind_ok, complete_ok]
  | bind computed supplied =>
    simp only [exec, execBind, computed, supplied, need_some, decide_true, check_true, except_bind_ok, complete_ok]

/-- The end of an operation whose result, where there is one, is its writes. -/
theorem complete_writes {i : Instr} {s t : State} {r : Except FaultCode State} (h : complete s r = .next t)
    (hr : ∀ u, r = .ok u → Writes i s u) : (∃ u, Writes i s u ∧ t = u.advance) ∨ ∃ c, t = s.raiseFault c := by
  obtain ⟨u, hu, ht⟩ | ⟨c, -, ht⟩ := complete_cases h
  · exact .inl ⟨u, hr u hu, ht⟩
  · exact .inr ⟨c, ht⟩

/-- What HALT can do (R202). -/
theorem exec_halt_cases {s t : State} (h : exec .halt s = .next t) :
    (s.lane1.bound = true ∧ s.lane2.bound = true ∧ t = { s.wipe with runState := .sat }) ∨
      t = s.raiseFault .unbound := by
  simp only [exec, execHalt] at h
  split at h
  · next hb =>
    obtain ⟨h1, h2⟩ := Bool.and_eq_true_iff.mp hb
    exact .inl ⟨h1, h2, (Host.Outcome.next.inj h).symm⟩
  · exact .inr (Host.Outcome.next.inj h).symm

/-- What an operation can do: make its writes and advance UPC, take a fault with nothing written, or, for HALT with both
bindings made, reach SAT. -/
theorem exec_cases {i : Instr} {s t : State} (h : exec i s = .next t) :
    (∃ u, Writes i s u ∧ t = u.advance) ∨ (∃ c, t = s.raiseFault c) ∨
      (i = .halt ∧ s.lane1.bound = true ∧ s.lane2.bound = true ∧ t = { s.wipe with runState := .sat }) := by
  rw [← or_assoc]
  cases i with
  | halt =>
    obtain ⟨h1, h2, ht⟩ | ht := exec_halt_cases h
    · exact .inr ⟨rfl, h1, h2, ht⟩
    · exact .inl (.inr ⟨_, ht⟩)
  | chk =>
    refine .inl (complete_writes h fun u hu => ?_)
    obtain ⟨valid, hu⟩ := check_bind_eq_ok hu
    obtain ⟨admitted, hu⟩ := check_bind_eq_ok hu
    cases hu
    exact .chk valid admitted
  | shai =>
    exact .inl (.inl ⟨_, .shai, (Host.Outcome.next.inj h).symm⟩)
  | shab =>
    refine .inl (complete_writes h fun u hu => ?_)
    obtain ⟨hin, hash, hu⟩ := need_bind_eq_ok hu
    obtain ⟨block, blk, hu⟩ := need_bind_eq_ok hu
    cases hu
    exact .shab hash blk
  | hmac =>
    refine .inl (complete_writes h fun u hu => ?_)
    obtain ⟨k0, key, hu⟩ := need_bind_eq_ok hu
    obtain ⟨m, message, hu⟩ := need_bind_eq_ok hu
    cases hu
    exact .hmac key message
  | mkd =>
    refine .inl (complete_writes h fun u hu => ?_)
    obtain ⟨seed, view, hu⟩ := need_bind_eq_ok hu
    obtain ⟨unwritten, hu⟩ := fresh_bind_eq_ok hu
    cases hu
    exact .mkd view unwritten
  | ckd p l =>
    refine .inl (complete_writes h fun u hu => ?_)
    obtain ⟨parent, above, hu⟩ := need_bind_eq_ok hu
    obtain ⟨index, view, hu⟩ := need_bind_eq_ok hu
    obtain ⟨unwritten, hu⟩ := fresh_bind_eq_ok hu
    obtain ⟨admitted, hu⟩ := check_bind_eq_ok hu
    cases hu
    exact .ckd above view unwritten admitted
  | clamp p =>
    refine .inl (complete_writes h fun u hu => ?_)
    obtain ⟨k, leaf, hu⟩ := need_bind_eq_ok hu
    obtain ⟨unwritten, hu⟩ := fresh_bind_eq_ok hu
    cases hu
    exact .clamp leaf unwritten
  | pmul p =>
    refine .inl (complete_writes h fun u hu => ?_)
    obtain ⟨v, scalar, hu⟩ := need_bind_eq_ok hu
    obtain ⟨unwritten, hu⟩ := fresh_bind_eq_ok hu
    obtain ⟨q, multiple, hu⟩ := except_bind_eq_ok hu
    cases hu
    exact .pmul scalar unwritten multiple
  | penc p =>
    refine .inl (complete_writes h fun u hu => ?_)
    obtain ⟨q, point, hu⟩ := need_bind_eq_ok hu
    obtain ⟨unwritten, hu⟩ := fresh_bind_eq_ok hu
    cases hu
    exact .penc point unwritten
  | bind p =>
    refine .inl (complete_writes h fun u hu => ?_)
    obtain ⟨e, computed, hu⟩ := need_bind_eq_ok hu
    obtain ⟨key, supplied, hu⟩ := need_bind_eq_ok hu
    obtain ⟨equal, hu⟩ := check_bind_eq_ok hu
    cases hu
    exact .bind computed (of_decide_eq_true equal ▸ supplied)

/-! ### The frame of the writes (R47) -/

/-- The children of a lane are its four key-material registers. -/
theorem child_congr {r r' : LaneRegs} (h1 : r'.km1 = r.km1) (h2 : r'.km2 = r.km2) (h3 : r'.km3 = r.km3)
    (h4 : r'.km4 = r.km4) : ∀ l : Level, r'.child l = r.child l
  | 0 => h1
  | 1 => h2
  | 2 => h3
  | 3 => h4

@[simp] theorem lane_upc (s : State) (v : BitVec 5) (p : Lane) : ({ s with upc := v } : State).lane p = s.lane p := by
  cases p <;> rfl

@[simp] theorem parentKM_upc (s : State) (v : BitVec 5) (p : Lane) :
    ∀ l : Level, ({ s with upc := v } : State).parentKM p l = s.parentKM p l
  | 0 => rfl
  | 1 => congrArg LaneRegs.km1 (lane_upc s v p)
  | 2 => congrArg LaneRegs.km2 (lane_upc s v p)
  | 3 => congrArg LaneRegs.km3 (lane_upc s v p)

namespace Writes

variable {i : Instr} {s u : State}

theorem ne_halt (h : Writes i s u) : i ≠ .halt := by cases h <;> nofun

theorem inbuf_eq (h : Writes i s u) : u.inbuf = s.inbuf := by cases h <;> simp
theorem incnt_eq (h : Writes i s u) : u.incnt = s.incnt := by cases h <;> simp
theorem runState_eq (h : Writes i s u) : u.runState = s.runState := by cases h <;> simp
theorem err_eq (h : Writes i s u) : u.err = s.err := by cases h <;> simp
theorem upc_eq (h : Writes i s u) : u.upc = s.upc := by cases h <;> simp
theorem prog_eq (h : Writes i s u) : u.prog = s.prog := by cases h <;> simp
theorem agenda_eq (h : Writes i s u) : u.agenda = s.agenda := by cases h <;> simp

theorem km0_eq (h : Writes i s u) (hi : i ≠ .mkd) : u.km0 = s.km0 := by
  cases h with
  | mkd => exact absurd rfl hi
  | _ => simp

theorem hmacInput_eq (h : Writes i s u) (hm : i ≠ .mkd) (hc : ∀ p l, i ≠ .ckd p l) :
    u.k0 = s.k0 ∧ u.mbuf = s.mbuf := by
  cases h with
  | mkd => exact absurd rfl hm
  | ckd => exact absurd rfl (hc _ _)
  | _ => simp

theorem hmacOutput_eq (h : Writes i s u) (hh : i ≠ .hmac) (hm : i ≠ .mkd) (hc : ∀ p l, i ≠ .ckd p l) :
    u.blk = s.blk ∧ u.idig = s.idig ∧ u.dig = s.dig := by
  cases h with
  | hmac => exact absurd rfl hh
  | mkd => exact absurd rfl hm
  | ckd => exact absurd rfl (hc _ _)
  | _ => simp

theorem h_eq (h : Writes i s u) (hi : i ≠ .shai) (hb : i ≠ .shab) (hh : i ≠ .hmac) (hm : i ≠ .mkd)
    (hc : ∀ p l, i ≠ .ckd p l) : u.h = s.h := by
  cases h with
  | shai => exact absurd rfl hi
  | shab => exact absurd rfl hb
  | hmac => exact absurd rfl hh
  | mkd => exact absurd rfl hm
  | ckd => exact absurd rfl (hc _ _)
  | _ => simp

/-- A completed operation leaves the lanes other than its own alone. -/
theorem lane_eq (h : Writes i s u) {p : Lane} (hp : laneOf? i ≠ some p) : u.lane p = s.lane p := by
  cases h with
  | chk | shai | shab | hmac | mkd => cases p <;> rfl
  | ckd => rw [lane_setChildKM_other _ _ _ _ fun e => hp (congrArg some e.symm), lane_loadHmac]
  | clamp => exact lane_setSC_other _ _ _ fun e => hp (congrArg some e.symm)
  | pmul => exact lane_setPT_other _ _ _ fun e => hp (congrArg some e.symm)
  | penc => exact lane_setENC_other _ _ _ fun e => hp (congrArg some e.symm)
  | bind => exact lane_setBound_other _ _ fun e => hp (congrArg some e.symm)

/-- A quantity of a lane that the operation's own write in that lane keeps is as before. -/
theorem laneField_eq {α : Type} (f : LaneRegs → α) (h : Writes i s u) (p : Lane)
    (ckd : ∀ r l k, i = .ckd p l → f (r.setChild l k) = f r)
    (clamp : ∀ r v, i = .clamp p → f { r with sc := some v } = f r)
    (pmul : ∀ r v, i = .pmul p → f { r with pt := some v } = f r)
    (penc : ∀ r v, i = .penc p → f { r with enc := some v } = f r)
    (bind : ∀ r, i = .bind p → f { r with bound := true } = f r) : f (u.lane p) = f (s.lane p) := by
  by_cases hp : laneOf? i = some p
  · cases h with
    | chk | shai | shab | hmac | mkd => cases hp
    | ckd =>
      cases hp
      rw [lane_setChildKM_same, lane_loadHmac, ckd _ _ _ rfl]
    | clamp =>
      cases hp
      rw [lane_setSC_same, clamp _ _ rfl]
    | pmul =>
      cases hp
      rw [lane_setPT_same, pmul _ _ rfl]
    | penc =>
      cases hp
      rw [lane_setENC_same, penc _ _ rfl]
    | bind =>
      cases hp
      rw [lane_setBound_same, bind _ rfl]
  · rw [h.lane_eq hp]

theorem sc_eq (h : Writes i s u) {p : Lane} (hi : i ≠ .clamp p) : (u.lane p).sc = (s.lane p).sc :=
  h.laneField_eq LaneRegs.sc p (fun _ _ _ _ => setChild_sc _ _ _) (fun _ _ e => absurd e hi) (fun _ _ _ => rfl)
    (fun _ _ _ => rfl) (fun _ _ => rfl)

theorem pt_eq (h : Writes i s u) {p : Lane} (hi : i ≠ .pmul p) : (u.lane p).pt = (s.lane p).pt :=
  h.laneField_eq LaneRegs.pt p (fun _ _ _ _ => setChild_pt _ _ _) (fun _ _ _ => rfl) (fun _ _ e => absurd e hi)
    (fun _ _ _ => rfl) (fun _ _ => rfl)

theorem enc_eq (h : Writes i s u) {p : Lane} (hi : i ≠ .penc p) : (u.lane p).enc = (s.lane p).enc :=
  h.laneField_eq LaneRegs.enc p (fun _ _ _ _ => setChild_enc _ _ _) (fun _ _ _ => rfl) (fun _ _ _ => rfl)
    (fun _ _ e => absurd e hi) (fun _ _ => rfl)

theorem bound_eq (h : Writes i s u) {p : Lane} (hi : i ≠ .bind p) : (u.lane p).bound = (s.lane p).bound :=
  h.laneField_eq LaneRegs.bound p (fun _ _ _ _ => setChild_bound _ _ _) (fun _ _ _ => rfl) (fun _ _ _ => rfl)
    (fun _ _ _ => rfl) (fun _ e => absurd e hi)

theorem childKM_eq (h : Writes i s u) {p : Lane} {l : Level} (hi : i ≠ .ckd p l) : u.childKM p l = s.childKM p l :=
  h.laneField_eq (LaneRegs.child · l) p
    (fun _ _ _ e => child_setChild_other _ _ fun el => hi (el ▸ e))
    (fun _ _ _ => child_congr rfl rfl rfl rfl l) (fun _ _ _ => child_congr rfl rfl rfl rfl l)
    (fun _ _ _ => child_congr rfl rfl rfl rfl l) (fun _ _ => child_congr rfl rfl rfl rfl l)

/-! ### What the writes put into the derived registers, which were unwritten (R30) -/

theorem km0_unwritten (h : Writes .mkd s u) : s.km0 = none := by
  cases h with | mkd _ unwritten => exact unwritten

theorem childKM_unwritten {p : Lane} {l : Level} (h : Writes (.ckd p l) s u) : s.childKM p l = none := by
  cases h with | ckd _ _ unwritten _ => exact unwritten

theorem sc_unwritten {p : Lane} (h : Writes (.clamp p) s u) : (s.lane p).sc = none := by
  cases h with | clamp _ unwritten => exact unwritten

theorem pt_unwritten {p : Lane} (h : Writes (.pmul p) s u) : (s.lane p).pt = none := by
  cases h with | pmul _ unwritten _ => exact unwritten

theorem enc_unwritten {p : Lane} (h : Writes (.penc p) s u) : (s.lane p).enc = none := by
  cases h with | penc _ unwritten => exact unwritten

/-- The writes of an operation do not depend on UPC. -/
theorem at_upc (h : Writes i s u) (v : BitVec 5) : Writes i { s with upc := v } { u with upc := v } := by
  cases h with
  | chk valid admitted => exact .chk valid admitted
  | shai => exact .shai
  | shab hash blk => exact .shab hash blk
  | hmac key message => exact .hmac key message
  | mkd view unwritten => exact .mkd view unwritten
  | @ckd _ p l _ _ above view unwritten admitted =>
    cases p <;> exact .ckd (by rwa [parentKM_upc]) view unwritten admitted
  | @clamp _ p _ leaf unwritten => cases p <;> exact .clamp leaf unwritten
  | @pmul _ p _ _ scalar unwritten multiple => cases p <;> exact .pmul scalar unwritten multiple
  | @penc _ p _ point unwritten => cases p <;> exact .penc point unwritten
  | @bind _ p _ computed supplied => cases p <;> exact .bind computed supplied

end Writes
end Sys2Proof.Machine
end

section
/-! What a turn of the sequencer and a step of the machine can do, and the one induction step behind every invariant. -/

namespace Sys2Proof.Machine

open Sys2Proof

/-- The advance of UPC after an operation that leaves the run going on: UPC was not 31. -/
theorem advance_busy {s : State} (h : s.advance.runState = .busy) :
    s.upc ≠ 31 ∧ s.advance = { s with upc := s.upc + 1 } := by
  obtain h31 | ⟨-, hf⟩ := advance_cases s
  · exact h31
  · rw [hf] at h
    cases h

/-- An operation that leaves the run going on has made its writes and advanced UPC by one, below 31. -/
theorem exec_busy {i : Instr} {s t : State} (h : exec i s = .next t) (ht : t.runState = .busy) :
    ∃ u, Writes i s u ∧ s.upc ≠ 31 ∧ t = { u with upc := s.upc + 1 } := by
  obtain ⟨u, hw, rfl⟩ | ⟨c, rfl⟩ | ⟨-, -, -, rfl⟩ := exec_cases h
  · obtain ⟨hu, ha⟩ := advance_busy ht
    rw [hw.upc_eq] at hu ha
    exact ⟨u, hw, hu, ha⟩
  · cases ht
  · cases ht

/-- What a turn of the sequencer can do (R36): an operation completes, a fault is taken, HALT reaches SAT, or, outside a run,
nothing. -/
theorem sequencerTurn_next {s t : State} (h : sequencerTurn s = .next t) :
    (s.runState = .busy ∧ ∃ i u, s.fetchOp = .ok i ∧ Writes i s u ∧ t = u.advance) ∨
    (s.runState = .busy ∧ ∃ c, t = s.raiseFault c) ∨
    (s.runState = .busy ∧ s.fetchOp = .ok .halt ∧ s.lane1.bound = true ∧ s.lane2.bound = true ∧
      t = { s.wipe with runState := .sat }) ∨
    (s.runState ≠ .busy ∧ t = s) := by
  obtain ⟨hb, i, hi, ho⟩ | ⟨hb, e, -, ho⟩ | ⟨hb, ho⟩ := sequencerTurn_cases s <;> rw [ho] at h
  · obtain ⟨u, hw, ht⟩ | hf | ⟨rfl, h1, h2, ht⟩ := exec_cases h
    · exact .inl ⟨hb, i, u, hi, hw, ht⟩
    · exact .inr (.inl ⟨hb, hf⟩)
    · exact .inr (.inr (.inl ⟨hb, hi, h1, h2, ht⟩))
  · exact .inr (.inl ⟨hb, _, (Host.Outcome.next.inj h).symm⟩)
  · exact .inr (.inr (.inr ⟨hb, (Host.Outcome.next.inj h).symm⟩))

/-- What a step can do (R78): a turn of the sequencer, listed or not, a host access, or the reset input, each with the turn
taken off the agenda. -/
theorem step_next {s t : State} (h : step s = .next t) :
    (∃ rest, sequencerTurn { s with agenda := rest } = .next t) ∨
    (∃ a rest, s.agenda = .host a :: rest ∧ t = hostAct a { s with agenda := rest }) ∨
    ∃ rest, s.agenda = .resetInput :: rest ∧ t = State.resetRegisters { s with agenda := rest } := by
  match ha : s.agenda with
  | [] =>
    rw [step_empty ha] at h
    exact .inl ⟨[], by rwa [← ha]⟩
  | .sequencer :: rest =>
    rw [step_sequencer ha] at h
    exact .inl ⟨rest, h⟩
  | .host a :: rest =>
    rw [step_host ha] at h
    exact .inr (.inl ⟨a, rest, rfl, (Host.Outcome.next.inj h).symm⟩)
  | .resetInput :: rest =>
    rw [step_reset ha] at h
    exact .inr (.inr ⟨rest, rfl, (Host.Outcome.next.inj h).symm⟩)

/-- What START can do (R73). -/
theorem start_cases (s : State) :
    (s.runState = .idle ∧ s.start = { s with runState := .busy, upc := 0 }) ∨ (s.runState ≠ .idle ∧ s.start = s) := by
  by_cases h : s.runState = .idle
  · exact .inl ⟨h, if_pos h⟩
  · exact .inr ⟨h, if_neg h⟩

/-- Each single effect of the machine keeps the predicate: what has to be shown of an invariant. -/
structure EffectsKeep (P : State → Prop) : Prop where
  agenda : ∀ s rest, P s → P { s with agenda := rest }
  writes : ∀ i s u, s.runState = .busy → Writes i s u → P s → P u
  advances : ∀ s, s.runState = .busy → P s → P { s with upc := s.upc + 1 }
  faults : ∀ s c, s.runState = .busy → P s → P (s.raiseFault c)
  accepts : ∀ s, s.runState = .busy → s.lane1.bound = true → s.lane2.bound = true → P s →
    P { s.wipe with runState := .sat }
  stores : ∀ s b, s.runState = .idle → s.incnt.val < 160 → P s →
    P { s with inbuf := Memory.write s.inbuf s.incnt.val b, incnt := Fin.ofNat 162 (s.incnt.val + 1) }
  overruns : ∀ s, s.runState = .idle → 160 ≤ s.incnt.val → P s → P { s with incnt := 161 }
  starts : ∀ s, s.runState = .idle → P s → P { s with runState := .busy, upc := 0 }
  resets : ∀ s, P s → P s.resetRegisters

namespace EffectsKeep

variable {P : State → Prop}

theorem of_sequencerTurn (k : EffectsKeep P) {s t : State} (hs : P s) (h : sequencerTurn s = .next t) : P t := by
  obtain ⟨hb, i, u, -, hw, rfl⟩ | ⟨hb, c, rfl⟩ | ⟨hb, -, h1, h2, rfl⟩ | ⟨-, rfl⟩ := sequencerTurn_next h
  · have hu : P u := k.writes i s u hb hw hs
    have hub : u.runState = .busy := hw.runState_eq.trans hb
    obtain ⟨-, ha⟩ | ⟨-, ha⟩ := advance_cases u <;> rw [ha]
    · exact k.advances u hub hu
    · exact k.faults u _ hub hu
  · exact k.faults s c hb hs
  · exact k.accepts s hb h1 h2 hs
  · exact hs

theorem of_hostAct (k : EffectsKeep P) {s : State} (hs : P s) (a : HostAction) : P (hostAct a s) := by
  obtain ⟨b, -, ha⟩ | ⟨-, ha⟩ | ⟨-, ha⟩ | ha := hostAct_cases a s <;> rw [ha]
  · obtain ⟨hi, hn, hp⟩ | ⟨hi, hn, hp⟩ | ⟨-, hp⟩ := pushByte_cases s b <;> rw [hp]
    · exact k.stores s b hi hn hs
    · exact k.overruns s hi hn hs
    · exact hs
  · obtain ⟨hi, hp⟩ | ⟨-, hp⟩ := start_cases s <;> rw [hp]
    · exact k.starts s hi hs
    · exact hs
  · exact k.resets s hs
  · exact hs

/-- A predicate that each single effect keeps is kept by every step. -/
theorem of_step (k : EffectsKeep P) {s t : State} (hs : P s) (h : step s = .next t) : P t := by
  obtain ⟨rest, h⟩ | ⟨a, rest, -, rfl⟩ | ⟨rest, -, rfl⟩ := step_next h
  · exact k.of_sequencerTurn (k.agenda s rest hs) h
  · exact k.of_hostAct (k.agenda s rest hs) a
  · exact k.resets _ (k.agenda s rest hs)

end EffectsKeep

/-! ### Unwritten registers (R21, R46) -/

@[simp] theorem unwritten_wipe (s : State) : s.wipe.unwritten = true := rfl
@[simp] theorem unwritten_raiseFault (s : State) (c : FaultCode) : (s.raiseFault c).unwritten = true := rfl
@[simp] theorem unwritten_resetRegisters (s : State) : s.resetRegisters.unwritten = true := rfl
@[simp] theorem unwritten_reset : State.reset.unwritten = true := rfl

/-- A lane of a state whose list of R46 is unwritten. -/
theorem unwritten_lane {s : State} (h : s.unwritten = true) (p : Lane) : (s.lane p).unwritten = true := by
  simp only [State.unwritten, Bool.and_eq_true] at h
  cases p <;> simp [h]

theorem sc_of_unwritten {r : LaneRegs} (h : r.unwritten = true) : r.sc = none := by
  simp only [LaneRegs.unwritten, Bool.and_eq_true, Option.isNone_iff_eq_none] at h
  simp [h]

theorem pt_of_unwritten {r : LaneRegs} (h : r.unwritten = true) : r.pt = none := by
  simp only [LaneRegs.unwritten, Bool.and_eq_true, Option.isNone_iff_eq_none] at h
  simp [h]

theorem enc_of_unwritten {r : LaneRegs} (h : r.unwritten = true) : r.enc = none := by
  simp only [LaneRegs.unwritten, Bool.and_eq_true, Option.isNone_iff_eq_none] at h
  simp [h]

theorem child_of_unwritten {r : LaneRegs} (h : r.unwritten = true) : ∀ l : Level, r.child l = none := by
  simp only [LaneRegs.unwritten, Bool.and_eq_true, Option.isNone_iff_eq_none] at h
  exact fun
    | 0 | 1 | 2 | 3 => by simp [LaneRegs.child, h]

theorem km0_of_unwritten {s : State} (h : s.unwritten = true) : s.km0 = none := by
  simp only [State.unwritten, Bool.and_eq_true, Option.isNone_iff_eq_none] at h
  simp [h]

end Sys2Proof.Machine
end

section
/-! The frame invariant (R22). -/

namespace Sys2Proof.Machine

open Sys2Proof

/-- The frame invariant speaks of INBUF and INCNT only. -/
theorem FrameInv.congr {s t : State} (h : FrameInv s) (hb : t.inbuf = s.inbuf) (hc : t.incnt = s.incnt) : FrameInv t :=
  ⟨hb ▸ h.canonical, hb ▸ h.inSpace, hb ▸ hc ▸ h.filled⟩

/-- A cleared frame holds no byte. -/
theorem frameInv_of_empty {s : State} (hb : s.inbuf = []) (hc : s.incnt = 0) : FrameInv s where
  canonical := by rw [hb]; rfl
  inSpace := by rw [hb]; rfl
  filled a := by simp [hb, hc, Memory.read]

/-- The byte stored at INCNT is the one new byte of the frame (R71). -/
theorem FrameInv.store {s : State} (h : FrameInv s) (hn : s.incnt.val < 160) (b : Byte) :
    FrameInv { s with inbuf := Memory.write s.inbuf s.incnt.val b, incnt := Fin.ofNat 162 (s.incnt.val + 1) } where
  canonical := wf_write _ b h.canonical
  inSpace := inFrame_write b hn h.inSpace
  filled a := by
    have hc : (Fin.ofNat 162 (s.incnt.val + 1)).val = s.incnt.val + 1 := Nat.mod_eq_of_lt (by omega)
    by_cases ha : a = s.incnt.val
    · subst ha
      simp only [read_write_same, hc]
      simp [hn]
    · simp only [read_write_other b ha, hc, h.filled]
      omega

/-- A byte past the 160th is dropped: the filled indices stay 0..159. -/
theorem FrameInv.overrun {s : State} (h : FrameInv s) (hn : 160 ≤ s.incnt.val) : FrameInv { s with incnt := 161 } where
  canonical := h.canonical
  inSpace := h.inSpace
  filled a := by
    have hc : (161 : Fin 162).val = 161 := rfl
    simp only [hc, h.filled]
    omega

/-- Only a write to DIN and the resets touch the frame. -/
theorem frameInv_effectsKeep : EffectsKeep FrameInv where
  agenda _ _ h := h.congr rfl rfl
  writes _ _ _ _ hw h := h.congr hw.inbuf_eq hw.incnt_eq
  advances _ _ h := h.congr rfl rfl
  faults _ _ _ h := h.congr rfl rfl
  accepts _ _ _ _ h := h.congr rfl rfl
  stores _ b _ hn h := h.store hn b
  overruns _ _ hn h := h.overrun hn
  starts _ _ h := h.congr rfl rfl
  resets _ _ := frameInv_of_empty rfl rfl

/-- Settles O35: the frame invariant, effect by effect. -/
theorem everyStepKeepsTheFrameInvariant : Obligations.EveryStepKeepsTheFrameInvariant :=
  fun _ _ => frameInv_effectsKeep.of_step

end Sys2Proof.Machine
end

section
/-! The control invariant (R29, R37, R38, R45, R46, R202). -/

namespace Sys2Proof.Machine

open Sys2Proof

/-- In a run only ERR is constrained. -/
theorem controlInv_of_busy {s : State} (hb : s.runState = .busy) (he : s.err = .noFault) : ControlInv s where
  errExactlyInFail := by simp [hb, he]
  quiescentUnwritten h := absurd hb h
  idleCleared h := by cases hb.symm.trans h
  satBound h := by cases hb.symm.trans h

/-- In IDLE every register but the frame's has its reset value. -/
theorem controlInv_of_idle {s : State} (hi : s.runState = .idle) (he : s.err = .noFault) (hw : s.unwritten = true)
    (hu : s.upc = 0) (h1 : s.lane1.bound = false) (h2 : s.lane2.bound = false) : ControlInv s where
  errExactlyInFail := by simp [hi, he]
  quiescentUnwritten _ := hw
  idleCleared _ := ⟨hu, h1, h2⟩
  satBound h := by cases hi.symm.trans h

theorem ControlInv.err_of_busy {s : State} (h : ControlInv s) (hb : s.runState = .busy) : s.err = .noFault :=
  h.errExactlyInFail.mpr (by simp [hb])

theorem ControlInv.err_of_idle {s : State} (h : ControlInv s) (hi : s.runState = .idle) : s.err = .noFault :=
  h.errExactlyInFail.mpr (by simp [hi])

theorem controlInv_raiseFault (s : State) (c : FaultCode) : ControlInv (s.raiseFault c) where
  errExactlyInFail := by simp
  quiescentUnwritten _ := unwritten_raiseFault s c
  idleCleared := nofun
  satBound := nofun

/-- HALT with both bindings made, in a run without a fault, reaches a consistent SAT. -/
theorem controlInv_accept {s : State} (he : s.err = .noFault) (h1 : s.lane1.bound = true) (h2 : s.lane2.bound = true) :
    ControlInv { s.wipe with runState := .sat } where
  errExactlyInFail := by simp [he]
  quiescentUnwritten _ := unwritten_wipe s
  idleCleared := nofun
  satBound _ := ⟨h1, h2⟩

theorem controlInv_resetRegisters (s : State) : ControlInv s.resetRegisters :=
  controlInv_of_idle rfl rfl rfl rfl rfl rfl

theorem controlInv_effectsKeep : EffectsKeep ControlInv where
  agenda _ _ h := ⟨h.errExactlyInFail, h.quiescentUnwritten, h.idleCleared, h.satBound⟩
  writes _ _ _ hb hw h := controlInv_of_busy (hw.runState_eq.trans hb) (hw.err_eq.trans (h.err_of_busy hb))
  advances _ hb h := controlInv_of_busy hb (h.err_of_busy hb)
  faults s c _ _ := controlInv_raiseFault s c
  accepts _ hb h1 h2 h := controlInv_accept (h.err_of_busy hb) h1 h2
  stores _ _ _ _ h := ⟨h.errExactlyInFail, h.quiescentUnwritten, h.idleCleared, h.satBound⟩
  overruns _ _ _ h := ⟨h.errExactlyInFail, h.quiescentUnwritten, h.idleCleared, h.satBound⟩
  starts _ hi h := controlInv_of_busy rfl (h.err_of_idle hi)
  resets s _ := controlInv_resetRegisters s

/-- Settles O36: the control invariant, effect by effect. -/
theorem everyStepKeepsTheControlInvariant : Obligations.EveryStepKeepsTheControlInvariant :=
  fun _ _ => controlInv_effectsKeep.of_step

end Sys2Proof.Machine
end

section
/-! The value invariant (R26, R27, R28, R193). -/

namespace Sys2Proof.Machine

open Sys2Proof

/-- A bit of a clamped scalar: the mask's bit of the key, or bit 254 (R160). -/
theorem getLsbD_clampScalar (k : Bytes 32) (j : Nat) :
    (clampScalar k).getLsbD j =
      (((BitVec.ofNat 256 (le256 k)).getLsbD j && clampMask.getLsbD j) || (BitVec.ofNat 256 (2 ^ 254)).getLsbD j) := by
  simp only [clampScalar, BitVec.getLsbD_or, BitVec.getLsbD_and]

/-- Every value of Clamp has the clamped bits (R163). -/
theorem clamped_clampScalar (k : Bytes 32) : clamped (clampScalar k) = true := by
  have masked : ∀ j ∈ [0, 1, 2, 255], clampMask.getLsbD j = false ∧ (BitVec.ofNat 256 (2 ^ 254)).getLsbD j = false := by
    decide
  have cleared : ∀ j ∈ [0, 1, 2, 255], (clampScalar k).getLsbD j = false := fun j hj => by
    rw [getLsbD_clampScalar, (masked j hj).1, (masked j hj).2, Bool.and_false, Bool.or_false]
  have set254 : (clampScalar k).getLsbD 254 = true := by
    rw [getLsbD_clampScalar, show (BitVec.ofNat 256 (2 ^ 254)).getLsbD 254 = true by decide, Bool.or_true]
  rw [clamped, cleared 0 (by decide), cleared 1 (by decide), cleared 2 (by decide), cleared 255 (by decide), set254]
  rfl

theorem onCurve_of_checkPoint {q r : Point} (h : checkPoint q = .ok r) : onCurve r = true := by
  unfold checkPoint at h
  split at h
  · cases h
    assumption
  · cases h

/-- The last check of the loop is made on its result (R184). -/
theorem onCurve_of_checkedMulLoop {v : Scalar} {r : Point} :
    ∀ {n : Nat} {q : Point}, checkedMulLoop v n q = .ok r → onCurve r = true
  | 0, _, h => onCurve_of_checkPoint h
  | n + 1, q, h => by
    obtain ⟨d, -, h⟩ := except_bind_eq_ok h
    dsimp only at h
    split at h <;>
    · obtain ⟨a, -, h⟩ := except_bind_eq_ok h
      exact onCurve_of_checkedMulLoop h

theorem onCurve_of_checkedMulBase {v : Scalar} {r : Point} (h : checkedMulBase v = .ok r) : onCurve r = true := by
  unfold checkedMulBase at h
  split at h
  · exact onCurve_of_checkedMulLoop h
  · exact onCurve_of_checkPoint h

theorem lane_congr {s t : State} (h1 : t.lane1 = s.lane1) (h2 : t.lane2 = s.lane2) : ∀ p, t.lane p = s.lane p
  | .one => h1
  | .two => h2

/-- The value invariant speaks of the lanes only. -/
theorem ValueInv.congr {s t : State} (h : ValueInv s) (hl : ∀ p, t.lane p = s.lane p) : ValueInv t where
  scalar p := by rw [hl]; exact h.scalar p
  point p := by rw [hl]; exact h.point p
  encoding p := by rw [hl]; exact h.encoding p

theorem valueInv_of_unwritten {s : State} (h : s.unwritten = true) : ValueInv s where
  scalar p v hv := by cases (sc_of_unwritten (unwritten_lane h p)).symm.trans hv
  point p q hq := by cases (pt_of_unwritten (unwritten_lane h p)).symm.trans hq
  encoding p e he := by cases (enc_of_unwritten (unwritten_lane h p)).symm.trans he

/-- Each of SC, PT and ENC is written by one operation, whose value is a clamped scalar, a checked point or the encoding of
a written point. -/
theorem ValueInv.writes {i : Instr} {s u : State} (h : ValueInv s) (hw : Writes i s u) : ValueInv u where
  scalar p v hv := by
    by_cases hi : i = .clamp p
    · subst hi
      cases hw
      rw [lane_setSC_same] at hv
      cases hv
      exact clamped_clampScalar _
    · exact h.scalar p v (hw.sc_eq hi ▸ hv)
  point p q hq := by
    by_cases hi : i = .pmul p
    · subst hi
      cases hw with
      | pmul _ _ multiple =>
        rw [lane_setPT_same] at hq
        cases hq
        exact onCurve_of_checkedMulBase multiple
    · exact h.point p q (hw.pt_eq hi ▸ hq)
  encoding p e he := by
    by_cases hi : i = .penc p
    · subst hi
      cases hw with
      | penc point _ =>
        rw [lane_setENC_same] at he
        cases he
        exact ⟨_, h.point p _ point, rfl⟩
    · exact h.encoding p e (hw.enc_eq hi ▸ he)

theorem valueInv_effectsKeep : EffectsKeep ValueInv where
  agenda _ _ h := h.congr (lane_congr rfl rfl)
  writes _ _ _ _ hw h := h.writes hw
  advances _ _ h := h.congr (lane_congr rfl rfl)
  faults s c _ _ := valueInv_of_unwritten (unwritten_raiseFault s c)
  accepts s _ _ _ _ := valueInv_of_unwritten (unwritten_wipe s)
  stores _ _ _ _ h := h.congr (lane_congr rfl rfl)
  overruns _ _ _ h := h.congr (lane_congr rfl rfl)
  starts _ _ h := h.congr (lane_congr rfl rfl)
  resets s _ := valueInv_of_unwritten (unwritten_resetRegisters s)

/-- Settles O37: the value invariant, effect by effect. -/
theorem everyStepKeepsTheValueInvariant : Obligations.EveryStepKeepsTheValueInvariant :=
  fun _ _ => valueInv_effectsKeep.of_step

end Sys2Proof.Machine
end

section
/-! The operations as the access matrix sees them: run-off, frame and write-once (R30, R36, R47). -/

namespace Sys2Proof.Machine

open Sys2Proof

/-- Settles O20: the writes of an operation do not depend on UPC, and at index 31 their advance is the fault entry. -/
theorem runningOffTheEndRaisesIllop : Obligations.RunningOffTheEndRaisesIllop := by
  intro i s t u _ _ h ht
  obtain ⟨w, hw, -, rfl⟩ := exec_busy h ht
  have hw31 : Writes i { s with upc := 31 } { w with upc := 31 } := hw.at_upc 31
  rw [hw31.exec_eq, advance_of_eq rfl]

/-- Settles O22: the frame of the writes, clause by clause. -/
theorem completedOperationWritesOnlyItsRow : Obligations.CompletedOperationWritesOnlyItsRow := by
  intro i s t _ h ht
  obtain ⟨u, hw, hu, rfl⟩ := exec_busy h ht
  simp only [State.childKM, lane_upc]
  exact ⟨hw.ne_halt, hu, trivial, hw.err_eq, hw.incnt_eq, fun a => congrArg (Memory.read · a) hw.inbuf_eq, hw.prog_eq,
    hw.agenda_eq, hw.km0_eq, hw.hmacInput_eq, hw.hmacOutput_eq, hw.h_eq, fun _ => hw.lane_eq, fun _ _ => hw.childKM_eq,
    fun _ => hw.sc_eq, fun _ => hw.pt_eq, fun _ => hw.enc_eq, fun _ => hw.bound_eq⟩

/-! ### The register sequence of HMAC computes the function (R131, R133) -/

theorem bytesOf_toList {n : Nat} (v : Bytes n) : bytesOf n v.toList = v :=
  Vector.toList_inj.mp (toList_bytesOf (by simp))

/-- A key of one block is its own normal form (R131). -/
theorem normKey_block (k : Bytes 128) : normKey k.toList = k.toList := by
  simp [normKey, copies]

theorem toList_keyBlock (padByte : Byte) (k : Bytes 128) : (keyBlock padByte k).toList = xorPad padByte k.toList :=
  toList_bytesOf (by simp)

/-- The second block of a message of one block and `m`, at most 111 bytes: `m`, its padding, and the length (R120, R132). -/
def finalBlock (m : List Byte) : List Byte :=
  m ++ [0x80] ++ copies (111 - m.length) 0 ++ ser128 (8 * (128 + m.length))

theorem length_finalBlock {m : List Byte} (h : m.length ≤ 111) : (finalBlock m).length = 128 := by
  simp [finalBlock, ser128]
  omega

/-- The padding of one block and a message of at most 111 bytes fills the second block. -/
theorem pad_block_append (b : Bytes 128) {m : List Byte} (h : m.length ≤ 111) :
    pad (b.toList ++ m) = b.toList ++ finalBlock m := by
  have hz : padZeros (128 + m.length) = 111 - m.length := by
    unfold padZeros
    omega
  simp [pad, finalBlock, hz]

/-- The hash of one block and a message of at most 111 bytes is two compressions (R121, R133). -/
theorem sha512State_block_append (b : Bytes 128) {m : List Byte} (h : m.length ≤ 111) :
    sha512State (b.toList ++ m) = hmacPass b (bytesOf 128 (finalBlock m)) := by
  have hlen : (b.toList ++ finalBlock m).length / 128 = 2 := by simp [length_finalBlock h]
  have htake : (b.toList ++ finalBlock m).take 128 = b.toList := List.take_left' (by simp)
  have hdrop : (b.toList ++ finalBlock m).drop 128 = finalBlock m := List.drop_left' (by simp)
  have hlast : (finalBlock m).take 128 = finalBlock m := List.take_of_length_le (length_finalBlock h).le
  rw [sha512State, pad_block_append b h, hlen]
  simp only [blocksOf, htake, hdrop, hlast, bytesOf_toList, List.foldl_cons, List.foldl_nil, hmacPass]

/-- One pass of HMAC under the key in K0. -/
theorem sha512State_xorPad (padByte : Byte) (k : Bytes 128) {m : List Byte} (h : m.length ≤ 111) :
    sha512State (xorPad padByte (normKey k.toList) ++ m) =
      hmacPass (keyBlock padByte k) (bytesOf 128 (finalBlock m)) := by
  rw [normKey_block, ← toList_keyBlock, sha512State_block_append _ h]

theorem length_message (m : MessageBuffer) : m.message.length = m.mlen.val := by
  have := m.mlen.isLt
  rw [MessageBuffer.message, length_slice (by simp; omega), Nat.sub_zero]

/-- The inner pass of R133 gives the inner digest of R131. -/
theorem innerDigest_eq (k : Bytes 128) (m : MessageBuffer) : innerDigest k m = hmacInner k.toList m.message := by
  have hlen := length_message m
  have hm : m.message.length ≤ 111 := by omega
  rw [innerDigest, hmacInner, sha512, sha512State_xorPad _ _ hm, innerBlock, finalBlock, hlen]

/-- The outer pass of R133 gives the outer hash of R131. -/
theorem outerHash_eq (k : Bytes 128) (m : MessageBuffer) : outerHash k m = hmac512State k.toList m.message := by
  have hlen : (innerDigest k m).toList.length = 64 := by simp
  rw [outerHash, hmac512State, ← innerDigest_eq, sha512State_xorPad _ _ (by omega), outerBlock, finalBlock, hlen]

theorem hmacDigest_eq (k : Bytes 128) (m : MessageBuffer) : hmacDigest k m = hmac512 k.toList m.message :=
  congrArg serH (outerHash_eq k m)

/-! ### Write-once (R30) -/

/-- A written register differs from the mark. -/
theorem fresh_of_ne_none {α : Type} {r : Option α} (h : r ≠ none) : fresh r = .error .seq := by
  obtain ⟨v, rfl⟩ := Option.ne_none_iff_exists'.mp h
  rfl

/-- An operation that finds its destination written raises Fault(SEQ), whether or not its source is written. -/
theorem complete_need_fresh {α β : Type} (s : State) (src : Option α) {dst : Option β} (h : dst ≠ none)
    (f : α → Except FaultCode State) :
    complete s (need src >>= fun v => fresh dst >>= fun _ => f v) = .next (s.raiseFault .seq) := by
  rw [fresh_of_ne_none h]
  cases src <;> rfl

theorem exec_mkd_written {s : State} (h : s.km0 ≠ none) : exec .mkd s = .next (s.raiseFault .seq) :=
  complete_need_fresh s s.seedView h _

theorem exec_ckd_written {s : State} {p : Lane} {l : Level} (h : s.childKM p l ≠ none) :
    exec (.ckd p l) s = .next (s.raiseFault .seq) := by
  simp only [exec, execCkd, fresh_of_ne_none h]
  cases s.parentKM p l <;> cases s.pathView p l <;> rfl

theorem exec_clamp_written {s : State} {p : Lane} (h : (s.lane p).sc ≠ none) :
    exec (.clamp p) s = .next (s.raiseFault .seq) :=
  complete_need_fresh s (s.lane p).km4 h _

theorem exec_pmul_written {s : State} {p : Lane} (h : (s.lane p).pt ≠ none) :
    exec (.pmul p) s = .next (s.raiseFault .seq) :=
  complete_need_fresh s (s.lane p).sc h _

theorem exec_penc_written {s : State} {p : Lane} (h : (s.lane p).enc ≠ none) :
    exec (.penc p) s = .next (s.raiseFault .seq) :=
  complete_need_fresh s (s.lane p).pt h _

namespace Writes

variable {i : Instr} {s u : State}

theorem km0_of_written (h : Writes i s u) (hs : s.km0 ≠ none) : u.km0 = s.km0 :=
  h.km0_eq fun e => hs (km0_unwritten (e ▸ h))

theorem childKM_of_written (h : Writes i s u) {p : Lane} {l : Level} (hs : s.childKM p l ≠ none) :
    u.childKM p l = s.childKM p l :=
  h.childKM_eq fun e => hs (childKM_unwritten (e ▸ h))

theorem sc_of_written (h : Writes i s u) {p : Lane} (hs : (s.lane p).sc ≠ none) : (u.lane p).sc = (s.lane p).sc :=
  h.sc_eq fun e => hs (sc_unwritten (e ▸ h))

theorem pt_of_written (h : Writes i s u) {p : Lane} (hs : (s.lane p).pt ≠ none) : (u.lane p).pt = (s.lane p).pt :=
  h.pt_eq fun e => hs (pt_unwritten (e ▸ h))

theorem enc_of_written (h : Writes i s u) {p : Lane} (hs : (s.lane p).enc ≠ none) : (u.lane p).enc = (s.lane p).enc :=
  h.enc_eq fun e => hs (enc_unwritten (e ▸ h))

end Writes

/-- HMAC completes over whatever its four destinations hold (R30, R134). -/
theorem exec_hmac {s : State} {k : Bytes 128} {m : MessageBuffer} (hk : s.k0 = some k) (hm : s.mbuf = some m)
    (hu : s.upc ≠ 31) : exec .hmac s = .next { s.hmacSeq k m with upc := s.upc + 1 } := by
  rw [(Writes.hmac hk hm).exec_eq, advance_of_ne (by exact hu)]
  rfl

/-- Settles O23: a register of this list is written by one operation only, which finds it unwritten. -/
theorem derivedRegistersAreWriteOnce : Obligations.DerivedRegistersAreWriteOnce := by
  refine ⟨?_, fun _ => exec_mkd_written, fun _ _ _ => exec_ckd_written, fun _ _ => exec_clamp_written,
    fun _ _ => exec_pmul_written, fun _ _ => exec_penc_written, ?_, ?_⟩
  · intro i s t h ht
    obtain ⟨u, hw, -, rfl⟩ := exec_busy h ht
    simp only [State.childKM, lane_upc]
    exact ⟨hw.km0_of_written, fun _ _ => hw.childKM_of_written, fun _ => hw.sc_of_written, fun _ => hw.pt_of_written,
      fun _ => hw.enc_of_written⟩
  · intro s hu
    exact ⟨_, Writes.shai.exec_eq, by rw [advance_of_ne (by exact hu)], by rw [advance_of_ne (by exact hu)]⟩
  · intro s k m hk hm hu
    refine ⟨_, exec_hmac hk hm hu, ?_, ?_, ?_, ?_, rfl⟩
    · rw [hmacSeq_idig, innerDigest_eq]
    · rw [hmacSeq_dig, hmacDigest_eq]
    · rw [hmacSeq_h, outerHash_eq]
    · rw [hmacSeq_blk, innerDigest_eq]

end Sys2Proof.Machine
end

section
/-! STATE and the steps that change it, the wipe, reset, and what the host sees (R36 to R39, R45, R46, R48). -/

namespace Sys2Proof.Machine

open Sys2Proof

/-- A turn of the sequencer that changes STATE ends a run in SAT or in FAIL (R37). -/
theorem sequencerTurn_changes_state {s t : State} (h : sequencerTurn s = .next t) (hne : t.runState ≠ s.runState) :
    (s.runState = .busy ∧ t.runState = .sat ∧ s.fetchOp = .ok .halt ∧ s.lane1.bound = true ∧ s.lane2.bound = true) ∨
      (s.runState = .busy ∧ t.runState = .fail ∧ ∃ c, t.err = .raised c) := by
  obtain ⟨hb, i, u, -, hw, rfl⟩ | ⟨hb, c, rfl⟩ | ⟨hb, hf, h1, h2, rfl⟩ | ⟨-, rfl⟩ := sequencerTurn_next h
  · obtain ⟨-, ha⟩ | ⟨-, ha⟩ := advance_cases u
    · rw [ha] at hne
      exact absurd hw.runState_eq hne
    · rw [ha]
      exact .inr ⟨hb, rfl, _, rfl⟩
  · exact .inr ⟨hb, rfl, c, rfl⟩
  · exact .inl ⟨hb, rfl, hf, h1, h2⟩
  · exact absurd rfl hne

/-- A host access that changes STATE is START in IDLE or CLEAR (R37). -/
theorem hostAct_changes_state {a : HostAction} {s : State} (hne : (hostAct a s).runState ≠ s.runState) :
    (s.runState = .idle ∧ (hostAct a s).runState = .busy ∧ a = .write 0x1 0x01) ∨
      ((hostAct a s).runState = .idle ∧ a = .write 0x1 0x02) := by
  obtain ⟨b, -, ha⟩ | ⟨rfl, ha⟩ | ⟨rfl, ha⟩ | ha := hostAct_cases a s <;> rw [ha] at hne ⊢
  · obtain ⟨-, -, hp⟩ | ⟨-, -, hp⟩ | ⟨-, hp⟩ := pushByte_cases s b <;> exact absurd (by rw [hp]) hne
  · obtain ⟨hi, hp⟩ | ⟨-, hp⟩ := start_cases s
    · exact .inl ⟨hi, by rw [hp], rfl⟩
    · exact absurd (by rw [hp]) hne
  · exact .inr ⟨rfl, rfl⟩
  · exact absurd rfl hne

/-- Settles O26: agent by agent, the turns that change STATE. -/
theorem stateChangesOnlyByItsTransitions : Obligations.StateChangesOnlyByItsTransitions := by
  refine ⟨⟨rfl, rfl, rfl, rfl⟩, fun s t h hne => ?_⟩
  obtain ⟨rest, h⟩ | ⟨a, rest, ha, rfl⟩ | ⟨rest, ha, rfl⟩ := step_next h
  · obtain hsat | hfail := sequencerTurn_changes_state h hne
    · exact .inr (.inl hsat)
    · exact .inr (.inr (.inl hfail))
  · obtain ⟨hi, hb, rfl⟩ | ⟨hi, rfl⟩ := hostAct_changes_state hne
    · exact .inl ⟨hi, hb, rest, ha⟩
    · exact .inr (.inr (.inr ⟨hi, rest, .inl ha⟩))
  · exact .inr (.inr (.inr ⟨rfl, rest, .inr ha⟩))

/-- In a run the sequencer's turn executes the fetched operation (R36). -/
theorem sequencerTurn_busy {s : State} {i : Instr} (hb : s.runState = .busy) (hf : s.fetchOp = .ok i) :
    sequencerTurn s = exec i s := by
  simp only [sequencerTurn, hb, hf]

/-- Outside a run the sequencer's turn changes nothing. -/
theorem sequencerTurn_quiescent {s : State} (hb : s.runState ≠ .busy) : sequencerTurn s = .next s := by
  obtain ⟨h, -⟩ | ⟨h, -⟩ | ⟨-, h⟩ := sequencerTurn_cases s
  · exact absurd h hb
  · exact absurd h hb
  · exact h

theorem pushByte_program (s : State) (b : Byte) : (s.pushByte b).agenda = s.agenda ∧ (s.pushByte b).prog = s.prog := by
  obtain ⟨-, -, hp⟩ | ⟨-, -, hp⟩ | ⟨-, hp⟩ := pushByte_cases s b <;> rw [hp] <;> exact ⟨rfl, rfl⟩

theorem start_program (s : State) : s.start.agenda = s.agenda ∧ s.start.prog = s.prog := by
  obtain ⟨-, hp⟩ | ⟨-, hp⟩ := start_cases s <;> rw [hp] <;> exact ⟨rfl, rfl⟩

/-- No host access touches the program or the turns to come. -/
theorem hostAct_program (a : HostAction) (s : State) :
    (hostAct a s).agenda = s.agenda ∧ (hostAct a s).prog = s.prog := by
  obtain ⟨b, -, ha⟩ | ⟨-, ha⟩ | ⟨-, ha⟩ | ha := hostAct_cases a s <;> rw [ha]
  · exact pushByte_program s b
  · exact start_program s
  · exact ⟨rfl, rfl⟩
  · exact ⟨rfl, rfl⟩

/-- Settles O4: the turn at the head of the agenda decides the step. -/
theorem stepRunsTheDecodedOperation : Obligations.StepRunsTheDecodedOperation := by
  refine ⟨?_, ?_, ?_, ?_, ?_, ?_, ?_, ?_, ?_⟩
  · intro s i hb ha hf
    rw [step_empty ha, sequencerTurn_busy hb hf]
  · intro s i rest hb ha hf
    rw [step_sequencer ha]
    exact sequencerTurn_busy hb hf
  · intro s hb ha
    rw [step_empty ha, sequencerTurn_quiescent hb]
  · intro s rest hb ha
    rw [step_sequencer ha]
    exact sequencerTurn_quiescent hb
  · exact fun s o b rest ha => step_host ha
  · exact fun s o rest ha => step_host ha
  · exact fun s rest ha => step_reset ha
  · exact fun s o b => hostAct_program (.write o b) s
  · exact fun s => ⟨rfl, rfl⟩

/-- Settles O24: the wipe by its definition, and HALT, which ends in it either way. -/
theorem wipeClearsExactlyItsList : Obligations.WipeClearsExactlyItsList := by
  intro s
  refine ⟨unwritten_wipe s, rfl, rfl, fun p => by rw [lane_wipe, wiped_bound], rfl, rfl, rfl, rfl, rfl, fun t h => ?_,
    fun c => rfl⟩
  obtain ⟨-, -, rfl⟩ | rfl := exec_halt_cases h
  · exact unwritten_wipe s
  · exact unwritten_raiseFault s _

theorem statusByte_resetRegisters (s : State) : s.resetRegisters.statusByte = 0x00 := by
  rw [State.statusByte, resetRegisters_err, resetRegisters_runState]
  decide

theorem doneLine_resetRegisters (s : State) : s.resetRegisters.doneLine = false := by
  rw [State.doneLine, resetRegisters_runState]
  decide

/-- Settles O25: reset is the clearing of the registers too, with the program and the turns it starts from. -/
theorem resetAndClearGiveTheStatedValues : Obligations.ResetAndClearGiveTheStatedValues := by
  refine ⟨fun s t ht => ?_, fun s => ⟨rfl, rfl, rfl⟩⟩
  have cleared : ∃ r : State, t = r.resetRegisters := by
    obtain rfl | rfl | rfl := ht
    · exact ⟨State.reset, rfl⟩
    · exact ⟨s, rfl⟩
    · exact ⟨s, rfl⟩
  obtain ⟨r, rfl⟩ := cleared
  exact ⟨rfl, rfl, rfl, rfl, fun _ => rfl, fun p => by cases p <;> rfl, unwritten_resetRegisters r,
    statusByte_resetRegisters r, doneLine_resetRegisters r, rfl⟩

/-- The fields of a byte that packs three bits above two (R39). -/
theorem statusByte_fields : ∀ (e : BitVec 3) (r : BitVec 2),
    ((e.setWidth 8 <<< 2) ||| r.setWidth 8 : Byte).extractLsb' 0 2 = r ∧
    ((e.setWidth 8 <<< 2) ||| r.setWidth 8 : Byte).extractLsb' 2 3 = e ∧
    ((e.setWidth 8 <<< 2) ||| r.setWidth 8 : Byte).extractLsb' 5 3 = 0 := by decide

/-- DONE is 1 exactly in SAT and FAIL (R39). -/
theorem doneLine_iff (s : State) : s.doneLine = true ↔ s.runState = .sat ∨ s.runState = .fail := by
  cases hs : s.runState <;> simp [State.doneLine, hs, RunState.code]

/-- Settles O31: the packing of STATUS, and the two lines over the codes of STATE. -/
theorem statusShowsStateAndErr : Obligations.StatusShowsStateAndErr := by
  intro s
  obtain ⟨hstate, herr, hzero⟩ := statusByte_fields s.err.code s.runState.code
  exact ⟨rfl, rfl, hstate, herr, hzero, rfl, by simp [State.satLine], doneLine_iff s⟩

/-- Settles O33: each view reads only STATE, ERR, UPC and INCNT. -/
theorem hostReadsRevealNoSecret : Obligations.HostReadsRevealNoSecret := by
  intro s t hstate herr hupc hincnt
  have hstatus : s.statusByte = t.statusByte := by rw [State.statusByte, State.statusByte, hstate, herr]
  have hupcr : s.upcrByte = t.upcrByte := by rw [State.upcrByte, State.upcrByte, hupc]
  have hincntr : s.incntrByte = t.incntrByte := by rw [State.incntrByte, State.incntrByte, hincnt]
  refine ⟨fun o => ?_, ?_, ?_⟩
  · rw [hostRead, hostRead, hstatus, hupcr, hincntr]
  · rw [State.doneLine, State.doneLine, hstate]
  · rw [State.satLine, State.satLine, hstate]

/-! ### The invariants at reset (R45) -/

/-- With nothing written and no binding made there is nothing to trace (R206). -/
theorem traced_of_unwritten {s : State} (h : s.unwritten = true) (hb : ∀ p, (s.lane p).bound = false) : Traced s where
  master k hk := by cases (km0_of_unwritten h).symm.trans hk
  child p l k hk := by cases (child_of_unwritten (unwritten_lane h p) l).symm.trans hk
  scalar p v hv := by cases (sc_of_unwritten (unwritten_lane h p)).symm.trans hv
  point p q hq := by cases (pt_of_unwritten (unwritten_lane h p)).symm.trans hq
  encoding p e he := by cases (enc_of_unwritten (unwritten_lane h p)).symm.trans he
  bound p hp := by cases (hb p).symm.trans hp

/-- Settles O34: right after reset nothing is written and the frame is empty. -/
theorem invariantsHoldAtReset : Obligations.InvariantsHoldAtReset := by
  have control : ControlInv State.reset := controlInv_of_idle rfl rfl rfl rfl rfl rfl
  have traced : Traced State.reset := traced_of_unwritten unwritten_reset fun p => by cases p <;> rfl
  exact ⟨frameInv_of_empty rfl rfl, control, valueInv_of_unwritten unwritten_reset, control, traced⟩

end Sys2Proof.Machine
end

section
/-! The codecs of bits and of integers (R62 to R64): each is inverse to its reading, and each reading is the sum it stands for. -/

namespace Sys2Proof.Machine

open Sys2Proof

/-! ### Bits and bytes (R62) -/

theorem byteBits_injective {b c : Byte} (h : byteBits b = byteBits c) : b = c := by
  simp only [byteBits, List.cons.injEq, and_true] at h
  obtain ⟨h7, h6, h5, h4, h3, h2, h1, h0⟩ := h
  refine BitVec.eq_of_getLsbD_eq fun k hk => ?_
  interval_cases k <;> assumption

/-- The byte made of eight bits has these bits. -/
theorem byteBits_bitsValue : ∀ b7 b6 b5 b4 b3 b2 b1 b0 : Bool,
    byteBits (BitVec.ofNat 8 (bitsValue [b7, b6, b5, b4, b3, b2, b1, b0])) = [b7, b6, b5, b4, b3, b2, b1, b0] := by decide

theorem ofNat_bitsValue_byteBits (b : Byte) : BitVec.ofNat 8 (bitsValue (byteBits b)) = b :=
  byteBits_injective (byteBits_bitsValue ..)

theorem getElem?_byteBits (b : Byte) {k : Nat} (hk : k < 8) : (byteBits b)[k]? = some (b.getLsbD (7 - k)) := by
  interval_cases k <;> rfl

/-- The first eight bits make the first byte. -/
theorem bytesOfBits_byteBits_append (b : Byte) (rest : List Bool) :
    bytesOfBits (byteBits b ++ rest) = (bytesOfBits rest).map (b :: ·) := by
  conv_rhs => rw [← ofNat_bitsValue_byteBits b]
  rfl

theorem bytesOfBits_bitsOfBytes (s : List Byte) : bytesOfBits (bitsOfBytes s) = some s := by
  induction s with
  | nil => rfl
  | cons b bs ih => rw [bitsOfBytes, bytesOfBits_byteBits_append, ih, Option.map_some]

theorem bitsOfBytes_of_bytesOfBits {v : List Bool} {s : List Byte} (h : bytesOfBits v = some s) : bitsOfBytes s = v := by
  induction v using bytesOfBits.induct generalizing s with
  | case1 =>
    cases h
    rfl
  | case2 b7 b6 b5 b4 b3 b2 b1 b0 rest ih =>
    obtain ⟨bs, hbs, rfl⟩ := Option.map_eq_some_iff.mp h
    rw [bitsOfBytes, ih hbs, byteBits_bitsValue]
    rfl
  | case3 v hnil hcons =>
    rw [bytesOfBits.eq_3 v hnil hcons] at h
    cases h

/-- Bytes are defined exactly for whole groups of eight bits. -/
theorem isSome_bytesOfBits : ∀ v : List Bool, (bytesOfBits v).isSome = true ↔ v.length % 8 = 0
  | [] => by simp [bytesOfBits]
  | [_] | [_, _] | [_, _, _] | [_, _, _, _] | [_, _, _, _, _] | [_, _, _, _, _, _] | [_, _, _, _, _, _, _] => by
    simp [bytesOfBits]
  | _ :: _ :: _ :: _ :: _ :: _ :: _ :: _ :: rest => by
    simp only [bytesOfBits, Option.isSome_map, isSome_bytesOfBits rest, List.length_cons]
    omega

theorem getElem?_bitsOfBytes {s : List Byte} {j k : Nat} (hj : j < s.length) (hk : k < 8) :
    (bitsOfBytes s)[8 * j + k]? = some ((s.getD j 0).getLsbD (7 - k)) := by
  induction s generalizing j with
  | nil => cases hj
  | cons b bs ih =>
    have hlen : (byteBits b).length = 8 := rfl
    cases j with
    | zero =>
      rw [bitsOfBytes, Nat.mul_zero, Nat.zero_add, List.getElem?_append_left hk, getElem?_byteBits b hk,
        List.getD_cons_zero]
    | succ j =>
      rw [bitsOfBytes, List.getElem?_append_right (by omega), hlen, show 8 * (j + 1) + k - 8 = 8 * j + k by omega,
        ih (Nat.lt_of_succ_lt_succ hj), List.getD_cons_succ]

/-- Settles O44: byte by byte, and group of eight bits by group. -/
theorem bitCodecIsInvertible : Obligations.BitCodecIsInvertible :=
  ⟨bytesOfBits_bitsOfBytes, fun _ _ => bitsOfBytes_of_bytesOfBits, isSome_bytesOfBits,
    fun _ _ _ => getElem?_bitsOfBytes⟩

/-! ### Big-endian integers (R63) -/

theorem beValue_lt (s : List Byte) : beValue s < 2 ^ (8 * s.length) := by
  induction s with
  | nil => decide
  | cons b bs ih =>
    calc b.toNat * 2 ^ (8 * bs.length) + beValue bs
      _ < (b.toNat + 1) * 2 ^ (8 * bs.length) := by
        rw [Nat.add_one_mul b.toNat]
        exact Nat.add_lt_add_left ih _
      _ ≤ 2 ^ 8 * 2 ^ (8 * bs.length) := Nat.mul_le_mul_right _ b.isLt
      _ = 2 ^ (8 * (bs.length + 1)) := by ring

theorem beValue_eq_sum (s : List Byte) :
    beValue s = ∑ j ∈ Finset.range s.length, (s.getD j 0).toNat * 2 ^ (8 * (s.length - 1 - j)) := by
  induction s with
  | nil => rfl
  | cons b bs ih =>
    have hexp : ∀ j, bs.length + 1 - 1 - (j + 1) = bs.length - 1 - j := fun j => by omega
    rw [beValue, ih, List.length_cons, Finset.sum_range_succ', Nat.add_comm]
    simp only [hexp, List.getD_cons_succ]
    rfl

theorem beValue_cons_div (b : Byte) (bs : List Byte) : beValue (b :: bs) / 2 ^ (8 * bs.length) = b.toNat := by
  rw [beValue, Nat.mul_comm, Nat.mul_add_div (Nat.two_pow_pos _), Nat.div_eq_of_lt (beValue_lt bs), Nat.add_zero]

theorem beValue_cons_mod (b : Byte) (bs : List Byte) : beValue (b :: bs) % 2 ^ (8 * bs.length) = beValue bs := by
  rw [beValue, Nat.mul_comm, Nat.mul_add_mod, Nat.mod_eq_of_lt (beValue_lt bs)]

/-- Strings of one length are told apart by their values: the quotient is the first byte, the remainder the others. -/
theorem beValue_injective : ∀ {s t : List Byte}, s.length = t.length → beValue s = beValue t → s = t
  | [], [], _, _ => rfl
  | b :: bs, c :: cs, hlen, h => by
    have hlen' : bs.length = cs.length := Nat.succ.inj hlen
    have hhead : b.toNat = c.toNat := by rw [← beValue_cons_div b bs, ← beValue_cons_div c cs, h, hlen']
    have hrest : beValue bs = beValue cs := by rw [← beValue_cons_mod b bs, ← beValue_cons_mod c cs, h, hlen']
    rw [BitVec.eq_of_toNat_eq hhead, beValue_injective hlen' hrest]

/-- The n-byte string of any number reads as its low 8n bits. -/
theorem beValue_serBE (n v : Nat) : beValue (serBE n v) = v % 2 ^ (8 * n) := by
  induction n with
  | zero => exact (Nat.mod_one v).symm
  | succ n ih =>
    rw [serBE, beValue, length_serBE, ih, BitVec.toNat_ofNat, Nat.shiftRight_eq_div_pow, Nat.mul_succ, Nat.pow_add,
      Nat.mod_mul, Nat.mul_comm, Nat.add_comm]

theorem serBE_beValue (s : List Byte) : serBE s.length (beValue s) = s :=
  beValue_injective (length_serBE ..) (by rw [beValue_serBE, Nat.mod_eq_of_lt (beValue_lt s)])

theorem getElem?_serBE {n v j : Nat} (hj : j < n) :
    (serBE n v)[j]? = some (BitVec.ofNat 8 (v >>> (8 * (n - 1 - j)))) := by
  induction n generalizing j with
  | zero => cases hj
  | succ n ih =>
    cases j with
    | zero => rfl
    | succ j =>
      rw [serBE, List.getElem?_cons_succ, ih (Nat.lt_of_succ_lt_succ hj), show n + 1 - 1 - (j + 1) = n - 1 - j by omega]

/-- Settles O45: by induction on the length, most significant byte first. -/
theorem bigEndianCodecsAreInverse : Obligations.BigEndianCodecsAreInverse :=
  ⟨beValue_eq_sum, fun n v hv => by rw [beValue_serBE, Nat.mod_eq_of_lt hv], fun s => ⟨beValue_lt s, serBE_beValue s⟩,
    fun _ _ _ => getElem?_serBE, toList_serH⟩

/-! ### Little-endian integers (R64) -/

theorem leValue_lt (s : List Byte) : leValue s < 2 ^ (8 * s.length) := by
  induction s with
  | nil => decide
  | cons b bs ih =>
    calc b.toNat + 2 ^ 8 * leValue bs
      _ < 2 ^ 8 * (leValue bs + 1) := by
        have hb := b.isLt
        omega
      _ ≤ 2 ^ 8 * 2 ^ (8 * bs.length) := Nat.mul_le_mul_left _ ih
      _ = 2 ^ (8 * (bs.length + 1)) := by ring

theorem leValue_eq_sum (s : List Byte) : leValue s = ∑ j ∈ Finset.range s.length, (s.getD j 0).toNat * 2 ^ (8 * j) := by
  induction s with
  | nil => rfl
  | cons b bs ih =>
    have hshift : ∀ j, ((b :: bs).getD (j + 1) 0).toNat * 2 ^ (8 * (j + 1)) = 2 ^ 8 * ((bs.getD j 0).toNat * 2 ^ (8 * j)) :=
      fun j => by rw [List.getD_cons_succ]; ring
    rw [leValue, ih, List.length_cons, Finset.sum_range_succ', Nat.add_comm, Finset.mul_sum]
    simp only [hshift, List.getD_cons_zero, Nat.mul_zero, Nat.pow_zero, Nat.mul_one]

/-- The n-byte string of any number reads as its low 8n bits. -/
theorem leValue_serLE (n v : Nat) : leValue (serLE n v) = v % 2 ^ (8 * n) := by
  induction n generalizing v with
  | zero => exact (Nat.mod_one v).symm
  | succ n ih =>
    rw [serLE, leValue, ih, BitVec.toNat_ofNat, Nat.shiftRight_eq_div_pow, Nat.mul_succ, Nat.add_comm (8 * n), Nat.pow_add,
      Nat.mod_mul]

theorem serLE_leValue (s : List Byte) : serLE s.length (leValue s) = s := by
  induction s with
  | nil => rfl
  | cons b bs ih =>
    have hlow : BitVec.ofNat 8 (b.toNat + 2 ^ 8 * leValue bs) = b := by
      refine BitVec.eq_of_toNat_eq ?_
      rw [BitVec.toNat_ofNat, Nat.add_mul_mod_self_left, Nat.mod_eq_of_lt b.isLt]
    have hhigh : (b.toNat + 2 ^ 8 * leValue bs) >>> 8 = leValue bs := by
      rw [Nat.shiftRight_eq_div_pow, Nat.add_mul_div_left _ _ (by decide), Nat.div_eq_of_lt b.isLt, Nat.zero_add]
    rw [leValue, List.length_cons, serLE, hlow, hhigh, ih]

theorem getElem?_serLE {n v j : Nat} (hj : j < n) : (serLE n v)[j]? = some (BitVec.ofNat 8 (v >>> (8 * j))) := by
  induction n generalizing v j with
  | zero => cases hj
  | succ n ih =>
    cases j with
    | zero => rfl
    | succ j =>
      rw [serLE, List.getElem?_cons_succ, ih (Nat.lt_of_succ_lt_succ hj), ← Nat.shiftRight_add, Nat.mul_succ, Nat.add_comm]

theorem toList_serLE256 (v : Nat) : (serLE256 v).toList = serLE 32 v := toList_bytesOf (length_serLE 32 v)

theorem le256_serLE256 (v : Nat) : le256 (serLE256 v) = v % 2 ^ 256 := by
  rw [le256, toList_serLE256, leValue_serLE]

theorem le256_lt (k : Bytes 32) : le256 k < 2 ^ 256 := by
  have h := leValue_lt k.toList
  rwa [Vector.length_toList] at h

theorem serLE256_le256 (k : Bytes 32) : serLE256 (le256 k) = k := by
  have h := serLE_leValue k.toList
  rw [Vector.length_toList] at h
  rw [serLE256, le256, h, bytesOf_toList]

/-- Settles O46: by induction on the length, least significant byte first, at 32 bytes. -/
theorem littleEndianCodecsAreInverse : Obligations.LittleEndianCodecsAreInverse :=
  ⟨leValue_eq_sum, fun v hv => by rw [le256_serLE256, Nat.mod_eq_of_lt hv], fun k => ⟨le256_lt k, serLE256_le256 k⟩,
    fun v j hj => by rw [toList_serLE256, getElem?_serLE hj]⟩

end Sys2Proof.Machine
end

section
/-! The host's window (R69 to R76): what each access changes and returns. -/

namespace Sys2Proof.Machine

open Sys2Proof

@[simp] theorem hostWrite_din (b : Byte) (s : State) : hostWrite 0x0 b s = s.pushByte b := rfl
@[simp] theorem hostWrite_ctrl (v : Byte) (s : State) : hostWrite 0x1 v s = s.command v := rfl

theorem hostWrite_of_two_le {o : Nat} (h : 0x2 ≤ o) (v : Byte) (s : State) : hostWrite o v s = s := by
  have hdin : o ≠ dinOffset := by rw [dinOffset]; omega
  have hctrl : o ≠ ctrlOffset := by rw [ctrlOffset]; omega
  rw [hostWrite, if_neg hdin, if_neg hctrl]

theorem hostRead_of_four_lt {o : Nat} (h : 0x4 < o) (s : State) : hostRead o s = 0x00 := by
  have hstatus : o ≠ statusOffset := by rw [statusOffset]; omega
  have hupcr : o ≠ upcrOffset := by rw [upcrOffset]; omega
  have hincntr : o ≠ incntrOffset := by rw [incntrOffset]; omega
  rw [hostRead, if_neg hstatus, if_neg hupcr, if_neg hincntr]

theorem pushByte_of_lt {s : State} (hi : s.runState = .idle) (hn : s.incnt.val < 160) (b : Byte) : s.pushByte b =
    { s with inbuf := Memory.write s.inbuf s.incnt.val b, incnt := Fin.ofNat 162 (s.incnt.val + 1) } := by
  obtain ⟨-, -, hp⟩ | ⟨-, hle, -⟩ | ⟨hne, -⟩ := pushByte_cases s b
  · exact hp
  · omega
  · exact absurd hi hne

theorem pushByte_of_le {s : State} (hi : s.runState = .idle) (hn : 160 ≤ s.incnt.val) (b : Byte) :
    s.pushByte b = { s with incnt := 161 } := by
  obtain ⟨-, hlt, -⟩ | ⟨-, -, hp⟩ | ⟨hne, -⟩ := pushByte_cases s b
  · omega
  · exact hp
  · exact absurd hi hne

theorem pushByte_of_ne_idle {s : State} (h : s.runState ≠ .idle) (b : Byte) : s.pushByte b = s := if_neg h

theorem start_of_idle {s : State} (h : s.runState = .idle) : s.start = { s with runState := .busy, upc := 0 } := if_pos h

theorem start_of_ne_idle {s : State} (h : s.runState ≠ .idle) : s.start = s := if_neg h

/-- Settles O27: the three cases of a push, and the byte read back from the frame's memory. -/
theorem dinPushesOneByte : Obligations.DinPushesOneByte := by
  refine ⟨fun s b hi hn => ?_, fun s b hi hn => pushByte_of_le hi hn b, fun s b hi => pushByte_of_ne_idle hi b⟩
  rw [hostWrite_din, pushByte_of_lt hi hn]
  exact ⟨read_write_same _ b _, fun a ha => read_write_other b ha _, Nat.mod_eq_of_lt (by omega), rfl⟩

/-- Settles O28: START by its two cases, neither of which looks at the frame. -/
theorem startBeginsARunOnlyInIdle : Obligations.StartBeginsARunOnlyInIdle :=
  ⟨fun _ => start_of_idle, fun _ => start_of_ne_idle⟩

/-- Settles O29: none of the offsets and values that have an effect is met. -/
theorem otherHostAccessesDoNothing : Obligations.OtherHostAccessesDoNothing := by
  refine ⟨fun s v hstart hclear => ?_, fun s o v ho => hostWrite_of_two_le ho v s, fun s => ⟨rfl, rfl⟩,
    fun s o ho => hostRead_of_four_lt ho s, fun s o => rfl⟩
  rw [hostWrite_ctrl, State.command, if_neg hstart, if_neg hclear]

/-- The number of a byte that packs three bits above two (R39, R72). -/
theorem toNat_statusByte_fields : ∀ (e : BitVec 3) (r : BitVec 2),
    ((e.setWidth 8 <<< 2) ||| r.setWidth 8 : Byte).toNat = 4 * e.toNat + r.toNat := by decide

/-- UPCR shows all five bits of UPC (R42). -/
theorem toNat_upcrByte (s : State) : s.upcrByte.toNat = s.upc.toNat :=
  BitVec.toNat_setWidth_of_le (by decide)

/-- INCNTR shows the whole of INCNT, which is at most 161 (R42). -/
theorem toNat_incntrByte (s : State) : s.incntrByte.toNat = s.incnt.val :=
  Nat.mod_eq_of_lt (by omega)

/-- Settles O30: the packing of STATUS, and the two views wide enough for their registers. -/
theorem hostReadsReturnTheViews : Obligations.HostReadsReturnTheViews := fun s =>
  ⟨toNat_statusByte_fields s.err.code s.runState.code, toNat_upcrByte s, toNat_incntrByte s, rfl, rfl, rfl⟩

/-- Settles O32: of the accesses that can do something, a push and START are ignored outside IDLE, and CLEAR is excluded. -/
theorem hostCannotDisturbARun : Obligations.HostCannotDisturbARun := by
  intro s a hidle hclear
  obtain ⟨b, -, ha⟩ | ⟨-, ha⟩ | ⟨hc, -⟩ | ha := hostAct_cases a s
  · rw [ha, pushByte_of_ne_idle hidle]
  · rw [ha, start_of_ne_idle hidle]
  · exact absurd hc hclear
  · exact ha

end Sys2Proof.Machine
end

section
/-! The decoder (R91 to R95): its rows are disjoint, so a word is legal exactly when it matches a row, and it decodes to that
row's operation. -/

namespace Sys2Proof

/-! ### The rows of the opcode map (R93) -/

theorem OpcodeRow.accepts_iff (r : OpcodeRow) (w : Byte) : r.accepts w = true ↔ w &&& r.mask = r.value := beq_iff_eq

/-- Any two rows differ in a bit that both of them fix. -/
theorem opcodeRows_apart : opcodeRows.Pairwise fun r r' => r.value &&& r'.mask ≠ r'.value &&& r.mask := by decide

/-- A word that matches two rows gives them the same bits wherever both fix them. -/
theorem OpcodeRow.values_agree {r r' : OpcodeRow} {w : Byte} (h : w &&& r.mask = r.value) (h' : w &&& r'.mask = r'.value) :
    r.value &&& r'.mask = r'.value &&& r.mask := by
  rw [← h, ← h', BitVec.and_assoc, BitVec.and_assoc, BitVec.and_comm r.mask]

theorem row_unique {r r' : OpcodeRow} {w : Byte} (hr : r ∈ opcodeRows) (hr' : r' ∈ opcodeRows)
    (h : w &&& r.mask = r.value) (h' : w &&& r'.mask = r'.value) : r = r' := by
  have hsymm : Std.Symm fun r r' : OpcodeRow => r.value &&& r'.mask ≠ r'.value &&& r.mask := ⟨fun _ _ => Ne.symm⟩
  by_contra hne
  exact opcodeRows_apart.forall hr hr' hne (OpcodeRow.values_agree h h')

/-- A list whose entries are related pairwise, none of them to another, has at most one. -/
theorem length_le_one_of_pairwise {α : Type} {R : α → α → Prop} : ∀ {l : List α}, l.Pairwise R →
    (∀ a ∈ l, ∀ b ∈ l, ¬R a b) → l.length ≤ 1
  | [], _, _ => Nat.zero_le 1
  | [_], _, _ => Nat.le_refl 1
  | a :: b :: _, hl, hnot => absurd (List.rel_of_pairwise_cons hl List.mem_cons_self) (hnot a (by simp) b (by simp))

theorem length_accepting_rows_le_one (w : Byte) : (opcodeRows.filter (·.accepts w)).length ≤ 1 := by
  have hmatch : ∀ r ∈ opcodeRows.filter (·.accepts w), w &&& r.mask = r.value := fun r hr =>
    (r.accepts_iff w).mp (List.mem_filter.mp hr).2
  exact length_le_one_of_pairwise (opcodeRows_apart.filter _) fun r hr r' hr' hne =>
    hne (OpcodeRow.values_agree (hmatch r hr) (hmatch r' hr'))

/-! ### Decoding -/

theorem decode_of_row {r : OpcodeRow} {w : Byte} (hr : r ∈ opcodeRows) (h : w &&& r.mask = r.value) :
    decode w = .ok (r.operation w) := by
  have haccepts := (r.accepts_iff w).mpr h
  unfold decode
  split
  · next r' hf =>
    have h' := (r'.accepts_iff w).mp (List.find?_some (p := fun r : OpcodeRow => r.accepts w) hf)
    rw [row_unique (List.mem_of_find?_eq_some hf) hr h' h]
  · next hf => exact absurd haccepts (List.find?_eq_none.mp hf r hr)

theorem decode_of_no_row {w : Byte} (h : ∀ r ∈ opcodeRows, w &&& r.mask ≠ r.value) : decode w = .error (illegalReason w) := by
  have hnone : opcodeRows.find? (·.accepts w) = none :=
    List.find?_eq_none.mpr fun r hr haccepts => h r hr ((r.accepts_iff w).mp haccepts)
  rw [decode, hnone]

theorem decode_eq_ok_iff {w : Byte} {i : Instr} :
    decode w = .ok i ↔ ∃ r ∈ opcodeRows, w &&& r.mask = r.value ∧ r.operation w = i := by
  constructor
  · intro hi
    by_cases h : ∃ r ∈ opcodeRows, w &&& r.mask = r.value
    · obtain ⟨r, hr, hw⟩ := h
      exact ⟨r, hr, hw, Except.ok.inj ((decode_of_row hr hw).symm.trans hi)⟩
    · rw [decode_of_no_row fun r hr hw => h ⟨r, hr, hw⟩] at hi
      cases hi
  · rintro ⟨r, hr, hw, rfl⟩
    exact decode_of_row hr hw

theorem decode_illegal_iff {w : Byte} : (∃ e, decode w = .error e) ↔ ∀ r ∈ opcodeRows, w &&& r.mask ≠ r.value := by
  constructor
  · rintro ⟨e, he⟩ r hr hw
    rw [decode_of_row hr hw] at he
    cases he
  · exact fun h => ⟨_, decode_of_no_row h⟩

/-! ### Encoding, then decoding -/

theorem encoded_word_matches_row : ∀ i : Instr, Laws.EncodedWordMatchesRow.Statement i
  | .chk => Laws.EncodedWordMatchesRow.chk
  | .shai => Laws.EncodedWordMatchesRow.shai
  | .shab => Laws.EncodedWordMatchesRow.shab
  | .hmac => Laws.EncodedWordMatchesRow.hmac
  | .mkd => Laws.EncodedWordMatchesRow.mkd
  | .ckd p l => Laws.EncodedWordMatchesRow.ckd p l
  | .clamp p => Laws.EncodedWordMatchesRow.clamp p
  | .pmul p => Laws.EncodedWordMatchesRow.pmul p
  | .penc p => Laws.EncodedWordMatchesRow.penc p
  | .bind p => Laws.EncodedWordMatchesRow.bind p
  | .halt => Laws.EncodedWordMatchesRow.halt

theorem decode_encode (i : Instr) : decode (encode i) = .ok i := by
  obtain ⟨r, hr, -, haccepts, hop⟩ := encoded_word_matches_row i
  exact decode_eq_ok_iff.mpr ⟨r, hr, (r.accepts_iff _).mp haccepts, hop⟩

/-! ### Decoding, then encoding -/

/-- The lane operand is written back to bit 3 (R91). -/
theorem laneBit_laneField (w : Byte) : laneBit (laneField w) <<< 3 = w &&& 0x08 := by
  have hbit : w &&& 0x08 = if w.getLsbD 3 then 0x08 else 0 := BitVec.and_twoPow w 3
  rw [hbit, laneField]
  split <;> rfl

/-- The level operand is written back to bits 1:0 (R91). -/
theorem ofNat_levelField (w : Byte) : BitVec.ofNat 8 (levelField w).val = w &&& 0x03 := by
  have hlow : w.toNat &&& 3 = w.toNat % 4 := Nat.and_two_pow_sub_one_eq_mod w.toNat 2
  apply BitVec.eq_of_toNat_eq
  rw [BitVec.toNat_and, BitVec.toNat_ofNat]
  show w.toNat % 4 % 256 = w.toNat &&& 3
  omega

/-- A word is the bits its row fixes together with the others. -/
theorem value_or_rest {w m n v : Byte} (h : w &&& m = v) (hmn : m ||| n = 0xFF) : v ||| (w &&& n) = w := by
  rw [← h, ← BitVec.and_or_distrib_left, hmn]
  exact BitVec.and_allOnes

theorem value_or_lane {w v : Byte} (h : w &&& 0xF7 = v) : v ||| (laneBit (laneField w) <<< 3) = w := by
  rw [laneBit_laneField]
  exact value_or_rest h rfl

theorem value_or_lane_level {w v : Byte} (h : w &&& 0xF4 = v) :
    v ||| (laneBit (laneField w) <<< 3) ||| BitVec.ofNat 8 (levelField w).val = w := by
  rw [laneBit_laneField, ofNat_levelField, BitVec.or_assoc, ← BitVec.and_or_distrib_left]
  exact value_or_rest h rfl

theorem encode_operation : ∀ r ∈ opcodeRows, ∀ w : Byte, w &&& r.mask = r.value → encode (r.operation w) = w := by
  have hwhole : ∀ {v : Byte} (w : Byte), w &&& 0xFF = v → v = w := fun _ h => h.symm.trans BitVec.and_allOnes
  simp only [opcodeRows, List.forall_mem_cons]
  exact ⟨hwhole, hwhole, hwhole, hwhole, hwhole, fun _ => value_or_lane_level, fun _ => value_or_lane,
    fun _ => value_or_lane, fun _ => value_or_lane, fun _ => value_or_lane, hwhole, nofun⟩

theorem encode_of_decode {w : Byte} {i : Instr} (h : decode w = .ok i) : encode i = w := by
  obtain ⟨r, hr, hw, rfl⟩ := decode_eq_ok_iff.mp h
  exact encode_operation r hr w hw

/-- Settles O1: the rows are disjoint, so each word has the one row it matches; the 22 legal words are encoded operations. -/
theorem decodeFollowsTheOpcodeMap : Obligations.DecodeFollowsTheOpcodeMap := by
  refine ⟨rfl, length_accepting_rows_le_one, fun w r => decode_of_row, fun w h => ⟨_, decode_of_no_row h⟩, by decide, ?_⟩
  exact ⟨decode_encode .chk, decode_encode .shai, decode_encode .shab, decode_encode .hmac, decode_encode .mkd,
    decode_encode (.ckd .one 0), decode_encode (.ckd .one 1), decode_encode (.ckd .one 2), decode_encode (.ckd .one 3),
    decode_encode (.ckd .two 0), decode_encode (.ckd .two 1), decode_encode (.ckd .two 2), decode_encode (.ckd .two 3),
    decode_encode (.clamp .one), decode_encode (.clamp .two), decode_encode (.pmul .one), decode_encode (.pmul .two),
    decode_encode (.penc .one), decode_encode (.penc .two), decode_encode (.bind .one), decode_encode (.bind .two),
    decode_encode .halt⟩

/-- Settles O2: an encoded word matches the row of its operation, and a row's fixed bits with the operands make up the word. -/
theorem decodeInvertsEncode : Obligations.DecodeInvertsEncode :=
  ⟨decode_encode, fun _ _ => encode_of_decode⟩

end Sys2Proof
end

section
/-! Illegal words (R95), by the fields of a word, and the fault that fetching one raises. -/

namespace Sys2Proof.Machine

open Sys2Proof

/-! ### The opcode field and the low bits -/

theorem opcodeField_lt (w : Byte) : opcodeField w < 16 := by
  have h := w.isLt
  rw [opcodeField, BitVec.toNat_ushiftRight, Nat.shiftRight_eq_div_pow]
  omega

/-- A byte is its opcode field and its low four bits (R91). -/
theorem eq_iff_opcodeField_low {x y : Byte} : x = y ↔ opcodeField x = opcodeField y ∧ x &&& 0x0F = y &&& 0x0F := by
  have hlow : ∀ z : Byte, (z &&& 0x0F).toNat = z.toNat % 16 := fun z =>
    (BitVec.toNat_and z _).trans (Nat.and_two_pow_sub_one_eq_mod z.toNat 4)
  simp only [opcodeField, ← BitVec.toNat_inj, hlow, BitVec.toNat_ushiftRight, Nat.shiftRight_eq_div_pow]
  omega

/-- A row that fixes the opcode field, and requires 0 of the other bits it fixes, is matched by these fields. -/
theorem matches_iff_fields {m v : Byte} {k : Nat} (hm : m >>> 4 = 0x0F) (hk : opcodeField v = k) (hv : v &&& 0x0F = 0)
    (w : Byte) : w &&& m = v ↔ opcodeField w = k ∧ w &&& (m &&& 0x0F) = 0 := by
  have hhigh : opcodeField (w &&& m) = opcodeField w := by
    rw [opcodeField, BitVec.ushiftRight_and_distrib, hm, BitVec.toNat_and]
    exact (Nat.and_two_pow_sub_one_eq_mod (opcodeField w) 4).trans (Nat.mod_eq_of_lt (opcodeField_lt w))
  rw [eq_iff_opcodeField_low, hhigh, hk, hv, BitVec.and_assoc]

/-- Which words are illegal, by their opcode: those of the rows without operand, of CKD, of the rows with a lane operand only,
and those of no row (R91, R93). -/
theorem decode_illegal_iff_fields (w : Byte) : (∃ e, decode w = .error e) ↔
    (opcodeField w ∈ [0x1, 0x2, 0x3, 0x4, 0x5, 0xF] → w &&& 0x0F ≠ 0) ∧ (opcodeField w = 0x6 → w &&& 0x04 ≠ 0) ∧
      (opcodeField w ∈ [0x7, 0x8, 0x9, 0xA] → w &&& 0x07 ≠ 0) := by
  have hplain : ∀ (v : Byte) (k : Nat), opcodeField v = k → v &&& 0x0F = 0 →
      (w &&& 0xFF ≠ v ↔ (opcodeField w = k → w &&& 0x0F ≠ 0)) := fun v k hk hv =>
    (matches_iff_fields rfl hk hv w).not.trans not_and
  have hlane : ∀ (v : Byte) (k : Nat), opcodeField v = k → v &&& 0x0F = 0 →
      (w &&& 0xF7 ≠ v ↔ (opcodeField w = k → w &&& 0x07 ≠ 0)) := fun v k hk hv =>
    (matches_iff_fields rfl hk hv w).not.trans not_and
  have hlevel : w &&& 0xF4 ≠ 0x60 ↔ (opcodeField w = 0x6 → w &&& 0x04 ≠ 0) :=
    (matches_iff_fields rfl rfl rfl w).not.trans not_and
  simp only [decode_illegal_iff, opcodeRows, List.forall_mem_cons]
  rw [hplain 0x10 0x1 rfl rfl, hplain 0x20 0x2 rfl rfl, hplain 0x30 0x3 rfl rfl, hplain 0x40 0x4 rfl rfl,
    hplain 0x50 0x5 rfl rfl, hlevel, hlane 0x70 0x7 rfl rfl, hlane 0x80 0x8 rfl rfl, hlane 0x90 0x9 rfl rfl,
    hlane 0xA0 0xA rfl rfl, hplain 0xF0 0xF rfl rfl]
  simp only [List.mem_cons, List.not_mem_nil, or_imp, false_imp_iff, implies_true, and_true]
  tauto

/-- Bit 2 set is seen through every mask that holds it. -/
theorem and_ne_zero_of_bit2 {w m : Byte} (hw : w.getLsbD 2 = true) (hm : m.getLsbD 2 = true) : w &&& m ≠ 0 := by
  intro h
  have hbit : (w &&& m).getLsbD 2 = false := by rw [h]; rfl
  rw [BitVec.getLsbD_and, hw, hm] at hbit
  cases hbit

theorem and_four_of_bit2 {w : Byte} (hw : w.getLsbD 2 = false) : w &&& 0x04 = 0 := by
  have hbit : w &&& 0x04 = if w.getLsbD 2 then 0x04 else 0 := BitVec.and_twoPow w 2
  rw [hbit, hw]
  rfl

/-- The four classes of R95. -/
theorem decode_illegal_iff_classes (w : Byte) : (∃ e, decode w = .error e) ↔
    opcodeField w ∈ [0x0, 0xB, 0xC, 0xD, 0xE] ∨
    w.getLsbD 2 = true ∨
    (opcodeField w ∈ [0x1, 0x2, 0x3, 0x4, 0x5, 0xF] ∧ w &&& 0x0F ≠ 0) ∨
    (opcodeField w ∈ [0x7, 0x8, 0x9, 0xA] ∧ w &&& 0x07 ≠ 0) := by
  rw [decode_illegal_iff_fields]
  cases hz : w.getLsbD 2 with
  | true =>
    have hset : ∀ {m : Byte}, m.getLsbD 2 = true → w &&& m ≠ 0 := and_ne_zero_of_bit2 hz
    exact iff_of_true ⟨fun _ => hset rfl, fun _ => hset rfl, fun _ => hset rfl⟩ (.inr (.inl rfl))
  | false =>
    have hopcode := opcodeField_lt w
    rw [and_four_of_bit2 hz]
    generalize opcodeField w = k at hopcode
    interval_cases k <;> simp

/-- In a run, the sequencer's turn at an illegal word is the fault entry (R95). -/
theorem sequencerTurn_illegal {s : State} {e : IllegalWord} (hb : s.runState = .busy) (hf : s.fetchOp = .error e) :
    sequencerTurn s = .next (s.raiseFault .illop) := by
  simp only [sequencerTurn, hb, hf]

/-- Settles O3: the classes by the fields of the word, and the sequencer's turn, listed or not. -/
theorem illegalWordsRaiseIllop : Obligations.IllegalWordsRaiseIllop := by
  refine ⟨decode_illegal_iff_classes, fun s e hb ha hf => ?_, fun s e rest hb ha hf => ?_⟩
  · rw [step_empty ha, sequencerTurn_illegal hb hf]
  · rw [step_sequencer ha]
    exact sequencerTurn_illegal hb hf

end Sys2Proof.Machine
end

section
/-! Programs and the store (R96 to R101): what assembly writes, decoding reads back. -/

namespace Sys2Proof.Machine

open Sys2Proof

theorem programPart_halt {w : Byte} (ws : List Byte) (hw : decode w = .ok .halt) : programPart (w :: ws) = some [.halt] := by
  rw [programPart, hw]

theorem programPart_cons {w : Byte} {i : Instr} (ws : List Byte) (hw : decode w = .ok i) (hi : i ≠ .halt) :
    programPart (w :: ws) = (programPart ws).map (i :: ·) := by
  rw [programPart]
  split
  · next hd => exact absurd (Except.ok.inj (hw.symm.trans hd)) hi
  · next hd => rw [Except.ok.inj (hw.symm.trans hd)]
  · next hd => cases hw.symm.trans hd

/-- The store read up to its first HALT is the program it was assembled from, if the program fits, ends in HALT and has no
earlier one (R100). -/
theorem programPart_assembleWords : ∀ {n : Nat} {is : Program}, is.length ≤ n → is.endsInHalt = true →
    is.noEarlyHalt = true → programPart (assembleWords n is) = some is
  | _, [], _, hend, _ => by cases hend
  | n + 1, [i], _, hend, _ => by
    have hi : i = .halt := by simpa [Program.endsInHalt] using hend
    rw [hi, assembleWords, programPart_halt _ (decode_encode .halt)]
  | n + 1, i :: j :: is, hfits, hend, hearly => by
    have hstep : i ≠ .halt ∧ Program.noEarlyHalt (j :: is) = true := by
      simpa [Program.noEarlyHalt, List.dropLast_cons_cons] using hearly
    obtain ⟨hi, hrest⟩ := hstep
    have ih := programPart_assembleWords (n := n) (Nat.le_of_succ_le_succ hfits) hend hrest
    rw [assembleWords, programPart_cons _ (decode_encode i) hi, ih]
    rfl

/-- A well-formed program assembles to a well-formed store (R100). -/
theorem storeWellFormed_assemble {is : Program} (h : is.wellFormed = true) : storeWellFormed (assemble is) = true := by
  simp only [Program.wellFormed, Bool.and_eq_true] at h
  obtain ⟨⟨hfits, hend⟩, hearly⟩ := h
  have hread : programPart (assemble is).toList = some is :=
    programPart_assembleWords (of_decide_eq_true hfits) hend hearly
  rw [storeWellFormed, hread]
  rfl

theorem assemble_pseudoProve : assemble pseudoProve = romCanon := rfl

theorem wellFormed_pseudoProve : Program.wellFormed pseudoProve = true := rfl

/-- Settles O43: the expansions are the definitions, and ROM_CANON is well-formed because PROVE is and assembles to it. -/
theorem pseudoOperationsExpandAsTabled : Obligations.PseudoOperationsExpandAsTabled :=
  ⟨fun _ => rfl, fun _ => rfl, fun _ => rfl, rfl, assemble_pseudoProve, wellFormed_pseudoProve,
    assemble_pseudoProve ▸ storeWellFormed_assemble wellFormed_pseudoProve⟩

end Sys2Proof.Machine
end

section
/-! The message schedule and the compression function, stage by stage, and the operations that run them (R113, R114, R117,
R118). -/

namespace Sys2Proof.Machine

open Sys2Proof

/-! ### The schedule, oldest word first (R117) -/

/-- Every word after the sixteenth is the sum of the four earlier words that R117 names. -/
def FollowsRecurrence (w : List Word) : Prop :=
  ∀ t, 16 ≤ t → t < w.length → w.getD t 0 =
    smallSigma1 (w.getD (t - 2) 0) + w.getD (t - 7) 0 + smallSigma0 (w.getD (t - 15) 0) + w.getD (t - 16) 0

/-- A position counted from the newest word, counted from the oldest one. -/
theorem getD_reverse_eq_getD_sub {w : List Word} {i : Nat} (h : i < w.length) :
    w.reverse.getD i 0 = w.getD (w.length - (i + 1)) 0 := by
  rw [List.getD_reverse i h, show w.length - 1 - i = w.length - (i + 1) by omega]

theorem nextScheduleWord_reverse {w : List Word} (h : 16 ≤ w.length) : nextScheduleWord w.reverse =
    smallSigma1 (w.getD (w.length - 2) 0) + w.getD (w.length - 7) 0 + smallSigma0 (w.getD (w.length - 15) 0) +
      w.getD (w.length - 16) 0 := by
  simp only [nextScheduleWord]
  rw [getD_reverse_eq_getD_sub (i := 1) (by omega), getD_reverse_eq_getD_sub (i := 6) (by omega),
    getD_reverse_eq_getD_sub (i := 14) (by omega), getD_reverse_eq_getD_sub (i := 15) (by omega)]

/-- The word that the schedule adds is the one that the recurrence asks for; the earlier words stay. -/
theorem FollowsRecurrence.append_nextScheduleWord {w : List Word} (hw : FollowsRecurrence w) (hlen : 16 ≤ w.length) :
    FollowsRecurrence (w ++ [nextScheduleWord w.reverse]) := by
  intro t h16 ht
  have hle : t ≤ w.length := by simpa [Nat.lt_succ_iff] using ht
  have hold : ∀ j, j < w.length → (w ++ [nextScheduleWord w.reverse]).getD j 0 = w.getD j 0 :=
    List.getD_append _ _ _
  rw [hold (t - 2) (by omega), hold (t - 7) (by omega), hold (t - 15) (by omega), hold (t - 16) (by omega)]
  obtain hlt | rfl := hle.lt_or_eq
  · rw [hold t hlt, hw t h16 hlt]
  · rw [List.getD_append_right _ _ _ _ le_rfl, Nat.sub_self, List.getD_cons_zero, nextScheduleWord_reverse hlen]

theorem extendSchedule_succ_reverse (n : Nat) (w : List Word) :
    extendSchedule (n + 1) w.reverse = extendSchedule n (w ++ [nextScheduleWord w.reverse]).reverse := by
  rw [extendSchedule, List.reverse_append]
  rfl

@[simp] theorem length_extendSchedule : ∀ (n : Nat) (ws : List Word), (extendSchedule n ws).length = ws.length + n
  | 0, _ => rfl
  | n + 1, ws => by
    rw [extendSchedule, length_extendSchedule n, List.length_cons]
    omega

/-- Extending a schedule only adds words after those it has. -/
theorem prefix_extendSchedule : ∀ (n : Nat) (w : List Word), w <+: (extendSchedule n w.reverse).reverse
  | 0, w => by rw [extendSchedule, List.reverse_reverse]
  | n + 1, w => by
    rw [extendSchedule_succ_reverse]
    exact (List.prefix_append w _).trans (prefix_extendSchedule n _)

theorem FollowsRecurrence.extend : ∀ (n : Nat) {w : List Word}, FollowsRecurrence w → 16 ≤ w.length →
    FollowsRecurrence (extendSchedule n w.reverse).reverse
  | 0, w, hw, _ => by rwa [extendSchedule, List.reverse_reverse]
  | n + 1, w, hw, hlen => by
    rw [extendSchedule_succ_reverse]
    exact (hw.append_nextScheduleWord hlen).extend n (by simp; omega)

/-! ### The schedule of a block (R115, R117) -/

@[simp] theorem length_messageWords (b : Bytes 128) : (messageWords b).length = 16 := by simp [messageWords]

theorem getD_messageWords (b : Bytes 128) {t : Nat} (h : t < 16) : (messageWords b).getD t 0 = messageWord b t := by
  simp [messageWords, List.getD, h]

/-- The message words alone are too few for the recurrence to speak of. -/
theorem followsRecurrence_messageWords (b : Bytes 128) : FollowsRecurrence (messageWords b) := by
  intro t h16 ht
  rw [length_messageWords] at ht
  omega

@[simp] theorem length_messageSchedule (b : Bytes 128) : (messageSchedule b).length = 80 := by simp [messageSchedule]

theorem getD_messageSchedule_of_lt (b : Bytes 128) {t : Nat} (h : t < 16) :
    (messageSchedule b).getD t 0 = messageWord b t := by
  obtain ⟨added, hadded⟩ := prefix_extendSchedule 64 (messageWords b)
  rw [messageSchedule, ← hadded, List.getD_append _ _ _ _ (by simpa using h), getD_messageWords b h]

theorem followsRecurrence_messageSchedule (b : Bytes 128) : FollowsRecurrence (messageSchedule b) :=
  (followsRecurrence_messageWords b).extend 64 (length_messageWords b).ge

/-- Settles O47: the message words keep their places, and each added word follows the recurrence. -/
theorem messageScheduleFollowsTheRecurrence : Obligations.MessageScheduleFollowsTheRecurrence := fun b =>
  ⟨length_messageSchedule b, fun _ => getD_messageSchedule_of_lt b, fun t h16 ht =>
    followsRecurrence_messageSchedule b t h16 (by rwa [length_messageSchedule])⟩

/-! ### The compression (R118) -/

theorem length_roundConstants : roundConstants.length = 80 := rfl

/-- The eight working variables `v(t)` of R118: after the first `t` stages. -/
def workingWords (hin : Words8) (b : Bytes 128) (t : Nat) : Words8 :=
  sha512Rounds hin (roundConstants.take t) ((messageSchedule b).take t)

theorem workingWords_zero (hin : Words8) (b : Bytes 128) : workingWords hin b 0 = hin := rfl

theorem workingWords_succ (hin : Words8) (b : Bytes 128) {t : Nat} (h : t < 80) : workingWords hin b (t + 1) =
    sha512Round (workingWords hin b t) (roundConstants.getD t 0) ((messageSchedule b).getD t 0) :=
  Laws.sha512Rounds_take_succ hin roundConstants (messageSchedule b) t (by rwa [length_roundConstants])
    (by rwa [length_messageSchedule])

theorem compress_eq_addWords (hin : Words8) (b : Bytes 128) : compress hin b = addWords hin (workingWords hin b 80) := by
  rw [compress, workingWords, List.take_of_length_le length_roundConstants.le,
    List.take_of_length_le (length_messageSchedule b).le]

/-! ### SHAI and SHAB (R113, R114) -/

theorem exec_shai {s : State} (hu : s.upc ≠ 31) : exec .shai s = .next { s with h := some initialHash, upc := s.upc + 1 } := by
  rw [Writes.shai.exec_eq, advance_of_ne (by exact hu)]

theorem exec_shab {s : State} {hin : Words8} {b : Bytes 128} (hh : s.h = some hin) (hb : s.blk = some b) (hu : s.upc ≠ 31) :
    exec .shab s = .next { s with h := some (compress hin b), upc := s.upc + 1 } := by
  rw [(Writes.shab hh hb).exec_eq, advance_of_ne (by exact hu)]

/-- An operation that reads two registers raises Fault(SEQ) when either is unwritten. -/
theorem complete_need_need {α β : Type} (s : State) {r : Option α} {q : Option β} (h : r = none ∨ q = none)
    (f : α → β → Except FaultCode State) :
    complete s (need r >>= fun v => need q >>= fun w => f v w) = .next (s.raiseFault .seq) := by
  obtain rfl | rfl := h
  · rfl
  · cases r <;> rfl

theorem exec_shab_unwritten {s : State} (h : s.h = none ∨ s.blk = none) : exec .shab s = .next (s.raiseFault .seq) :=
  complete_need_need s h _

/-- Settles O7: the sequence of working variables is that of the first stages, one stage more at a time. -/
theorem shabCompressesTheBlock : Obligations.ShabCompressesTheBlock :=
  ⟨length_roundConstants,
    fun hin b => ⟨workingWords hin b, workingWords_zero hin b, fun _ => workingWords_succ hin b, compress_eq_addWords hin b⟩,
    decode_encode .shab, fun _ _ _ => exec_shab, fun _ => exec_shab_unwritten⟩

/-- Settles O6: SHAI has no check, so its end is its write and the advance of UPC. -/
theorem shaiInitialisesTheChainingState : Obligations.ShaiInitialisesTheChainingState :=
  ⟨decode_encode .shai, fun _ => exec_shai⟩

/-! ### The padding (R120) -/

theorem padZeros_lt (n : Nat) : padZeros n < 128 := Nat.mod_lt _ (by decide)

/-- The closed form of R120; 127 stands for -1 modulo 128. -/
theorem padZeros_eq_emod (n : Nat) : (padZeros n : Int) = (111 - (n : Int)) % 128 := by
  unfold padZeros
  omega

/-- The numbers of zero bytes that reach whole blocks are those congruent to `padZeros n` modulo 128. -/
theorem reaches_blocks_iff (n k : Nat) : (n + 1 + k + 16) % 128 = 0 ↔ k % 128 = padZeros n := by
  have hclosed := padZeros_eq_emod n
  omega

/-- Settles O48: `padZeros` is the least residue among the numbers of zero bytes that reach whole blocks. -/
theorem paddingReachesWholeBlocks : Obligations.PaddingReachesWholeBlocks := fun _ _ =>
  ⟨rfl, (reaches_blocks_iff _ _).mpr (Nat.mod_eq_of_lt (padZeros_lt _)),
    fun k hk => (reaches_blocks_iff _ k).mp hk ▸ Nat.mod_le k 128, padZeros_eq_emod _⟩

end Sys2Proof.Machine
end

section
/-! HMAC as the function of R131, over the rules above for the register sequence and for the operation (R131 to R134, R137). -/

namespace Sys2Proof.Machine

open Sys2Proof

/-! ### A key zero-padded into K0 (R137) -/

theorem toList_paddedKey {k : List Byte} (h : k.length ≤ 128) :
    (paddedKey k).toList = k ++ copies (128 - k.length) 0 :=
  toList_bytesOf (by simp; omega)

/-- A key and its zero-padded block have the same normal form: the block. -/
theorem normKey_paddedKey {k : List Byte} (h : k.length ≤ 128) : normKey (paddedKey k).toList = normKey k := by
  rw [normKey_block, toList_paddedKey h, normKey, if_pos h]

/-- HMAC512 sees its key through the normal form only. -/
theorem hmacInner_congr_normKey {k k' : List Byte} (h : normKey k = normKey k') (m : List Byte) :
    hmacInner k m = hmacInner k' m := by
  rw [hmacInner, hmacInner, h]

theorem hmac512_congr_normKey {k k' : List Byte} (h : normKey k = normKey k') (m : List Byte) :
    hmac512 k m = hmac512 k' m := by
  rw [hmac512, hmac512, hmac512State, hmac512State, h, hmacInner_congr_normKey h]

theorem innerDigest_paddedKey {k : List Byte} (h : k.length ≤ 128) (m : MessageBuffer) :
    innerDigest (paddedKey k) m = hmacInner k m.message := by
  rw [innerDigest_eq, hmacInner_congr_normKey (normKey_paddedKey h)]

theorem hmacDigest_paddedKey {k : List Byte} (h : k.length ≤ 128) (m : MessageBuffer) :
    hmacDigest (paddedKey k) m = hmac512 k m.message := by
  rw [hmacDigest_eq, hmac512_congr_normKey (normKey_paddedKey h)]

/-- Settles O49: the two passes of the sequence hash the two messages of HMAC512, and padding keeps the key's normal form. -/
theorem hmacSequenceEqualsHmacFunction : Obligations.HmacSequenceEqualsHmacFunction :=
  ⟨fun k m => ⟨innerDigest_eq k m, outerHash_eq k m, hmacDigest_eq k m⟩,
    fun _ m h => ⟨hmacDigest_paddedKey h m, innerDigest_paddedKey h m⟩⟩

/-! ### The operation (R134) -/

/-- The end state of the sequence, by the function instead of the register passes (R133). -/
theorem hmacSeq_eq (s : State) (k : Bytes 128) (m : MessageBuffer) : s.hmacSeq k m = { s with
    idig := some (hmacInner k.toList m.message)
    dig := some (hmac512 k.toList m.message)
    h := some (hmac512State k.toList m.message)
    blk := some (outerBlock (hmacInner k.toList m.message)) } := by
  rw [State.hmacSeq, innerDigest_eq, outerHash_eq, hmacDigest_eq]

theorem exec_hmac_unwritten {s : State} (h : s.k0 = none ∨ s.mbuf = none) :
    exec .hmac s = .next (s.raiseFault .seq) :=
  complete_need_need s h _

/-- Settles O8: HMAC completes with the end state of its sequence, which is that of the function. -/
theorem hmacComputesHmacSha512 : Obligations.HmacComputesHmacSha512 :=
  ⟨decode_encode .hmac, fun s k m hk hm hu => by rw [exec_hmac hk hm hu, hmacSeq_eq], fun _ => exec_hmac_unwritten⟩

end Sys2Proof.Machine
end

section
/-! MKD as the function of R142: the HMAC sequence under "ed25519 seed" over the seed, and its SEQ checks (R141, R144). -/

namespace Sys2Proof.Machine

open Sys2Proof

/-! ### The HMAC sequence under a key zero-padded into K0 -/

theorem hmac512State_congr_normKey {k k' : List Byte} (h : normKey k = normKey k') (m : List Byte) :
    hmac512State k m = hmac512State k' m := by
  rw [hmac512State, hmac512State, h, hmacInner_congr_normKey h]

theorem outerHash_paddedKey {k : List Byte} (h : k.length ≤ 128) (m : MessageBuffer) :
    outerHash (paddedKey k) m = hmac512State k m.message := by
  rw [outerHash_eq, hmac512State_congr_normKey (normKey_paddedKey h)]

/-- The end state of the sequence with a padded key, by the function of the key itself (R133, R137). -/
theorem loadHmac_paddedKey (s : State) {k : List Byte} (h : k.length ≤ 128) (m : MessageBuffer) :
    s.loadHmac (paddedKey k) m = { s with
      k0 := some (paddedKey k)
      mbuf := some m
      idig := some (hmacInner k m.message)
      dig := some (hmac512 k m.message)
      h := some (hmac512State k m.message)
      blk := some (outerBlock (hmacInner k m.message)) } := by
  rw [State.loadHmac, State.hmacSeq, innerDigest_paddedKey h, outerHash_paddedKey h, hmacDigest_paddedKey h]

/-! ### The seed as message and its key material (R141, R142) -/

theorem length_seedKey_le : seedKey.length ≤ 128 := by decide

/-- The message of MKD is the whole seed. -/
theorem message_seedMessage (seed : Bytes 64) : (seedMessage seed).message = seed.toList :=
  List.take_of_length_le (by simp [seedMessage])

theorem splitDigest_seed (seed : Bytes 64) :
    splitDigest (hmacDigest (paddedKey seedKey) (seedMessage seed)) = masterKey seed := by
  rw [masterKey, hmacDigest_paddedKey length_seedKey_le, message_seedMessage]

/-! ### The operation -/

/-- An operation whose first register or view is unwritten raises Fault(SEQ). -/
theorem complete_need_none {α : Type} (s : State) {r : Option α} (h : r = none) (f : α → Except FaultCode State) :
    complete s (need r >>= f) = .next (s.raiseFault .seq) := by
  rw [h]
  rfl

theorem exec_mkd_invalid {s : State} (h : s.seedView = none) : exec .mkd s = .next (s.raiseFault .seq) :=
  complete_need_none s h _

theorem exec_mkd {s : State} {seed : Bytes 64} (hv : s.seedView = some seed) (hk : s.km0 = none) (hu : s.upc ≠ 31) :
    exec .mkd s = .next { s.loadHmac (paddedKey seedKey) (seedMessage seed) with
      km0 := some (masterKey seed), upc := s.upc + 1 } := by
  rw [(Writes.mkd hv hk).exec_eq, advance_of_ne (by exact hu), splitDigest_seed]
  rfl

/-- Settles O9: MKD completes with the end state of HMAC512 of the seed under its key, and the split of that digest in KM0. -/
theorem mkdDerivesTheMasterKey : Obligations.MkdDerivesTheMasterKey := by
  refine ⟨decode_encode .mkd, fun s seed hv hk hu => ?_, fun s h => h.elim exec_mkd_invalid exec_mkd_written⟩
  rw [exec_mkd hv hk hu, loadHmac_paddedKey s length_seedKey_le, message_seedMessage]
  rfl

end Sys2Proof.Machine
end

section
/-! CKD as the function of R153: the HMAC sequence under the parent chain code over the CKD message, and its checks in their
order (R151 to R153, R157). -/

namespace Sys2Proof.Machine

open Sys2Proof

/-! ### The CKD message and the child (R151, R153) -/

theorem length_ckdData (k : Bytes 32) (i : PathIndex) : (ckdData k i).length = 37 := by
  simp [ckdData, ser32]

/-- The 27 zero bytes behind MLEN are not part of the message (R157). -/
theorem message_ckdMessage (k : Bytes 32) (i : PathIndex) : (ckdMessage k i).message = ckdData k i := by
  have hbytes : (ckdMessage k i).bytes.toList = ckdData k i ++ copies 27 0 :=
    toList_bytesOf (by rw [List.length_append, length_ckdData, length_copies])
  rw [MessageBuffer.message, hbytes]
  exact List.take_left' (length_ckdData k i)

/-- A chain code fits the key block. -/
theorem length_cc_le (parent : KeyMaterial) : parent.cc.toList.length ≤ 128 := by simp

theorem splitDigest_ckd (parent : KeyMaterial) (i : PathIndex) :
    splitDigest (hmacDigest (paddedKey parent.cc.toList) (ckdMessage parent.key i)) = ckdPriv parent i := by
  rw [ckdPriv, hmacDigest_paddedKey (length_cc_le parent), message_ckdMessage]

/-! ### The index (R152, R155) -/

theorem indexAdmitted_eq_true {i : PathIndex} (h : i.toNat < 2 ^ 31) : indexAdmitted i = true := decide_eq_true h

theorem indexAdmitted_eq_false {i : PathIndex} (h : 2 ^ 31 ≤ i.toNat) : indexAdmitted i = false :=
  decide_eq_false h.not_gt

/-! ### The operation -/

/-- The word of CKD p,l in the form of R152. -/
theorem decode_ckd_word (p : Lane) (l : Level) :
    decode (0x60 ||| (BitVec.ofNat 8 (p.number - 1) <<< 3) ||| BitVec.ofNat 8 l.val) = .ok (.ckd p l) := by
  have hlane : BitVec.ofNat 8 (p.number - 1) = laneBit p := by cases p <;> rfl
  rw [hlane]
  exact decode_encode (.ckd p l)

/-- The child goes to a lane and the HMAC sequence to the unit registers, so the child may be written first. -/
theorem setChildKM_loadHmac (s : State) (k0 : Bytes 128) (m : MessageBuffer) (p : Lane) (l : Level) (k : KeyMaterial) :
    (s.loadHmac k0 m).setChildKM p l k = (s.setChildKM p l k).loadHmac k0 m := by
  cases p <;> rfl

theorem exec_ckd {s : State} {p : Lane} {l : Level} {parent : KeyMaterial} {i : PathIndex}
    (above : s.parentKM p l = some parent) (view : s.pathView p l = some i) (unwritten : s.childKM p l = none)
    (hi : i.toNat < 2 ^ 31) (hu : s.upc ≠ 31) :
    exec (.ckd p l) s = .next
      { (s.setChildKM p l (ckdPriv parent i)).loadHmac (paddedKey parent.cc.toList) (ckdMessage parent.key i) with
        upc := s.upc + 1 } := by
  rw [(Writes.ckd above view unwritten (indexAdmitted_eq_true hi)).exec_eq, splitDigest_ckd, setChildKM_loadHmac,
    advance_of_ne (by simpa using hu), loadHmac_upc, setChildKM_upc]

theorem exec_ckd_unread {s : State} {p : Lane} {l : Level} (h : s.parentKM p l = none ∨ s.pathView p l = none) :
    exec (.ckd p l) s = .next (s.raiseFault .seq) :=
  complete_need_need s h _

/-- The index is checked last, after the three SEQ checks (R229). -/
theorem exec_ckd_not_admitted {s : State} {p : Lane} {l : Level} {parent : KeyMaterial} {i : PathIndex}
    (above : s.parentKM p l = some parent) (view : s.pathView p l = some i) (unwritten : s.childKM p l = none)
    (hi : 2 ^ 31 ≤ i.toNat) : exec (.ckd p l) s = .next (s.raiseFault .shape) := by
  simp only [exec, execCkd, above, view, unwritten, indexAdmitted_eq_false hi, need_some, fresh_none, check_false,
    except_bind_ok, except_bind_error, complete_error]

/-- Settles O10: CKD completes with the end state of HMAC512 of the CKD message under the parent chain code, and the split of
that digest in the child; what it cannot read, or finds written, is SEQ, and then an index not admitted is SHAPE. -/
theorem ckdDerivesTheChildKey : Obligations.CkdDerivesTheChildKey := by
  refine ⟨decode_ckd_word, fun s p l parent i above view unwritten hi hu => ?_, fun s p l h => ?_,
    fun _ _ _ _ _ => exec_ckd_not_admitted⟩
  · rw [exec_ckd above view unwritten hi hu, loadHmac_paddedKey _ (length_cc_le parent), message_ckdMessage]
    rfl
  · obtain habove | hview | hwritten := h
    · exact exec_ckd_unread (.inl habove)
    · exact exec_ckd_unread (.inr hview)
    · exact exec_ckd_written hwritten

end Sys2Proof.Machine
end

section
/-! Clamp as a mask on the key's little-endian integer, bit by bit and byte by byte, and the operation CLAMP (R160 to R163). -/

namespace Sys2Proof.Machine

open Sys2Proof

/-! ### A bitwise operation on little-endian integers is the operation on their bytes (R64) -/

theorem testBit_leValue_cons (b : Byte) (bs : List Byte) (j : Nat) :
    (leValue (b :: bs)).testBit j = if j < 8 then b.getLsbD j else (leValue bs).testBit (j - 8) := by
  rw [leValue, Nat.add_comm, Nat.testBit_two_pow_mul_add _ b.isLt]
  rfl

/-- An operation on bytes and one on numbers that are the same `f` of each bit agree through `leValue`. -/
theorem leValue_zipWith {f : Bool → Bool → Bool} {op : Byte → Byte → Byte} {opNat : Nat → Nat → Nat}
    (hf : f false false = false) (hop : ∀ a b j, (op a b).getLsbD j = f (a.getLsbD j) (b.getLsbD j))
    (hnat : ∀ x y j, (opNat x y).testBit j = f (x.testBit j) (y.testBit j)) :
    ∀ {s t : List Byte}, s.length = t.length → leValue (List.zipWith op s t) = opNat (leValue s) (leValue t)
  | [], [], _ => Nat.eq_of_testBit_eq fun j => by simp [leValue, hnat, hf]
  | a :: s, b :: t, h => Nat.eq_of_testBit_eq fun j => by
    have ih := leValue_zipWith hf hop hnat (Nat.succ_inj.mp h)
    simp only [List.zipWith_cons_cons, hnat, testBit_leValue_cons, ih, hop]
    split <;> rfl

theorem leValue_zipWith_and {s t : List Byte} (h : s.length = t.length) :
    leValue (List.zipWith (· &&& ·) s t) = leValue s &&& leValue t :=
  leValue_zipWith (f := and) rfl (fun _ _ _ => BitVec.getLsbD_and) (fun _ _ _ => Nat.testBit_and ..) h

theorem leValue_zipWith_or {s t : List Byte} (h : s.length = t.length) :
    leValue (List.zipWith (· ||| ·) s t) = leValue s ||| leValue t :=
  leValue_zipWith (f := or) rfl (fun _ _ _ => BitVec.getLsbD_or) (fun _ _ _ => Nat.testBit_or ..) h

/-- Copies of a byte that is neutral on the right change no byte. -/
theorem zipWith_copies_right {op : Byte → Byte → Byte} {c : Byte} (hc : ∀ a, op a c = a) :
    ∀ l : List Byte, List.zipWith op l (copies l.length c) = l
  | [] => rfl
  | a :: l => congrArg₂ List.cons (hc a) (zipWith_copies_right hc l)

/-- An operation that changes the first and the last byte only. -/
theorem zipWith_ends {op : Byte → Byte → Byte} {c : Byte} (hc : ∀ a, op a c = a) (a z b y : Byte) (l : List Byte) :
    List.zipWith op ([a] ++ l ++ [z]) ([b] ++ copies l.length c ++ [y]) = [op a b] ++ l ++ [op z y] := by
  rw [List.zipWith_append (by simp), List.zipWith_append (l₁ := [a]) (l₂ := [b]) rfl, zipWith_copies_right hc]
  rfl

/-! ### Clamp as a mask (R160) -/

/-- The mask is the bits 3 to 254. -/
theorem getLsbD_clampMask (j : Nat) : clampMask.getLsbD j = (decide (3 ≤ j) && decide (j < 255)) := by
  have hmask : clampMask.toNat = (2 ^ 252 - 1) <<< 3 := by decide
  rw [BitVec.getLsbD, hmask, Nat.testBit_shiftLeft, Nat.testBit_two_pow_sub_one, ← Bool.decide_and, ← Bool.decide_and,
    decide_eq_decide]
  omega

/-- The bits 3 to 253 are those of the key (R160). -/
theorem getLsbD_clampScalar_of_copied (k : Bytes 32) {j : Nat} (h3 : 3 ≤ j) (h253 : j ≤ 253) :
    (clampScalar k).getLsbD j = (le256 k).testBit j := by
  have hkept : clampMask.getLsbD j = true := by
    rw [getLsbD_clampMask, decide_eq_true h3, decide_eq_true (by omega), Bool.and_true]
  have hset : (BitVec.ofNat 256 (2 ^ 254)).getLsbD j = false := by
    rw [BitVec.getLsbD_ofNat, Nat.testBit_two_pow_of_ne (by omega), Bool.and_false]
  rw [getLsbD_clampScalar, hkept, hset, BitVec.getLsbD_ofNat, decide_eq_true (by omega), Bool.and_true, Bool.or_false,
    Bool.true_and]

theorem toNat_clampScalar (k : Bytes 32) :
    (clampScalar k).toNat = (le256 k &&& (2 ^ 256 - 1 - 7 - 2 ^ 255)) ||| 2 ^ 254 := by
  rw [clampScalar, clampMask, BitVec.toNat_or, BitVec.toNat_and, BitVec.toNat_ofNat, Nat.mod_eq_of_lt (le256_lt k)]
  rfl

/-! ### Clamp on the bytes of the key (R160) -/

/-- The first byte, the bytes 1 to 30 and the last byte of a key. -/
theorem toList_key (k : Bytes 32) : k.toList = [k[0]] ++ slice k.toList 1 31 ++ [k[31]] := by
  have hfirst : k.toList.take 1 = [k[0]] := by simp [List.take_one, List.head?_eq_getElem?]
  have hlast : k.toList.drop 31 = [k[31]] := by simp [List.drop_eq_getElem_cons]
  have hfront : k.toList.take 31 = [k[0]] ++ slice k.toList 1 31 :=
    calc k.toList.take 31
      _ = (k.toList.take 31).take 1 ++ (k.toList.take 31).drop 1 := (List.take_append_drop 1 _).symm
      _ = [k[0]] ++ slice k.toList 1 31 := by rw [List.take_take, Nat.min_eq_left (by decide), hfirst, slice]
  rw [← hfront, ← hlast, List.take_append_drop]

theorem leValue_mask_ends (a z : Byte) {l : List Byte} (h : l.length = 30) :
    leValue ([a &&& 0xF8] ++ l ++ [z &&& 0x7F]) = leValue ([a] ++ l ++ [z]) &&& (2 ^ 256 - 1 - 7 - 2 ^ 255) := by
  have hmask : leValue ([0xF8] ++ copies 30 0xFF ++ [0x7F]) = 2 ^ 256 - 1 - 7 - 2 ^ 255 := by decide
  have hones : ∀ b : Byte, b &&& 0xFF = b := fun _ => BitVec.and_allOnes
  rw [← hmask, ← leValue_zipWith_and (by simp [h]), ← h, zipWith_ends hones]

theorem leValue_set_last (a z : Byte) {l : List Byte} (h : l.length = 30) :
    leValue ([a] ++ l ++ [z ||| 0x40]) = leValue ([a] ++ l ++ [z]) ||| 2 ^ 254 := by
  have hset : leValue ([0x00] ++ copies 30 0x00 ++ [0x40]) = 2 ^ 254 := by decide
  have hzero : ∀ b : Byte, b ||| 0x00 = b := fun _ => BitVec.or_zero
  rw [← hset, ← leValue_zipWith_or (by simp [h]), ← h, zipWith_ends hzero, hzero]

theorem toNat_clampScalar_bytes (k : Bytes 32) : (clampScalar k).toNat =
    leValue ([k[0] &&& 0xF8] ++ slice k.toList 1 31 ++ [(k[31] &&& 0x7F) ||| 0x40]) := by
  have hlen : (slice k.toList 1 31).length = 30 := length_slice (by simp)
  rw [leValue_set_last _ _ hlen, leValue_mask_ends _ _ hlen, ← toList_key, toNat_clampScalar, le256]

/-- Settles O51: the mask as bits and as bytes. -/
theorem clampMasksTheLittleEndianKey : Obligations.ClampMasksTheLittleEndianKey := fun k =>
  ⟨toNat_clampScalar k, clamped_clampScalar k, fun _ => getLsbD_clampScalar_of_copied k, toNat_clampScalar_bytes k⟩

/-! ### Every clamped scalar (R163) -/

/-- The mask clears the low three bits, and 2^254 sets none of them. -/
theorem clampScalar_mod_eight (k : Bytes 32) : (clampScalar k).toNat % 8 = 0 := by
  rw [toNat_clampScalar, show 8 = 2 ^ 3 from rfl, Nat.or_mod_two_pow, Nat.and_mod_two_pow]
  simp

theorem le_toNat_clampScalar (k : Bytes 32) : 2 ^ 254 ≤ (clampScalar k).toNat := by
  rw [toNat_clampScalar]
  exact Nat.right_le_or

theorem toNat_clampScalar_lt (k : Bytes 32) : (clampScalar k).toNat < 2 ^ 255 := by
  rw [toNat_clampScalar]
  exact Nat.or_lt_two_pow (Nat.and_lt_two_pow _ (by decide)) (by decide)

/-- Clamp is idempotent: the bits it clears are clear, and bit 254 is set. -/
theorem clampScalar_serLE256 (k : Bytes 32) : clampScalar (serLE256 (clampScalar k).toNat) = clampScalar k := by
  have hkey : BitVec.ofNat 256 (le256 (serLE256 (clampScalar k).toNat)) = clampScalar k := by
    rw [le256_serLE256, Nat.mod_eq_of_lt (clampScalar k).isLt, BitVec.ofNat_toNat, BitVec.setWidth_eq]
  have habsorb : ∀ a m b : Bool, ((((a && m) || b) && m) || b) = ((a && m) || b) := by decide
  refine BitVec.eq_of_getLsbD_eq fun j _ => ?_
  rw [getLsbD_clampScalar (serLE256 _), hkey, getLsbD_clampScalar, habsorb]

/-- Settles O50: the clamped bits, the range they give, and that clamping them again changes none. -/
theorem clampedScalarsKeepTheInvariant : Obligations.ClampedScalarsKeepTheInvariant := fun k =>
  ⟨clamped_clampScalar k, clampScalar_mod_eight k, le_toNat_clampScalar k, toNat_clampScalar_lt k, clampScalar_serLE256 k⟩

/-! ### The operation (R161) -/

/-- The lane bit of a word, from the lane's number (R92). -/
theorem ofNat_number_sub_one (p : Lane) : BitVec.ofNat 8 (p.number - 1) = laneBit p := by cases p <;> rfl

theorem decode_clamp_word (p : Lane) : decode (0x70 ||| (BitVec.ofNat 8 (p.number - 1) <<< 3)) = .ok (.clamp p) := by
  rw [ofNat_number_sub_one]
  exact decode_encode (.clamp p)

theorem exec_clamp {s : State} {p : Lane} {k : KeyMaterial} (leaf : (s.lane p).km4 = some k)
    (unwritten : (s.lane p).sc = none) (hu : s.upc ≠ 31) :
    exec (.clamp p) s = .next { s.setSC p (clampScalar k.key) with upc := s.upc + 1 } := by
  rw [(Writes.clamp leaf unwritten).exec_eq, advance_of_ne (by rwa [setSC_upc]), setSC_upc]

theorem exec_clamp_no_leaf {s : State} {p : Lane} (h : (s.lane p).km4 = none) :
    exec (.clamp p) s = .next (s.raiseFault .seq) :=
  complete_need_none s h _

/-- Settles O11: CLAMP completes with the clamped leaf key in SC, and a leaf it cannot read or a written SC is SEQ. -/
theorem clampWritesTheClampedScalar : Obligations.ClampWritesTheClampedScalar :=
  ⟨decode_clamp_word, fun _ _ _ => exec_clamp, fun _ _ h => h.elim exec_clamp_no_leaf exec_clamp_written⟩

end Sys2Proof.Machine
end

section
/-! The field of R173 and R174: its operations give the exact residues, and it is a field without zero divisors in which 2 is not
0. -/

namespace Sys2Proof.Machine

open Sys2Proof Sys2Proof.Laws

theorem fact_prime_P25519 : Fact (Nat.Prime P25519) := ⟨prime_P25519⟩

theorem isDomain_F : IsDomain F :=
  have := fact_prime_P25519
  inferInstance

theorem two_ne_zero_F : (2 : F) ≠ 0 := by
  rw [← Nat.cast_two, Ne, ZMod.natCast_eq_zero_iff]
  decide +kernel

theorem toF_ne_zero {u : Felt} : toF u ≠ 0 ↔ u ≠ felt 0 := toF_eq_zero.not

/-- The non-negative residue of the difference: adding P25519 first keeps the natural subtraction exact. -/
theorem val_fSub (u v : Felt) : ((fSub u v).val : Int) = ((u.val : Int) - (v.val : Int)) % (P25519 : Int) := by
  have hv : v.val ≤ P25519 := v.isLt.le
  change (((u.val + (P25519 - v.val)) % P25519 : ℕ) : ℤ) = _
  rw [Int.natCast_emod, Nat.cast_add, Nat.cast_sub hv, show (u.val : ℤ) + (P25519 - v.val) = u.val - v.val + P25519 by ring,
    Int.add_emod_right]

/-- Fermat's formula for the inverse. -/
theorem val_fInv {u : Felt} (hu : u ≠ felt 0) : (fInv u).val = u.val ^ (P25519 - 2) % P25519 := by
  have hval : u.val ≠ 0 := fun h0 => hu (Fin.ext h0)
  rw [fInv, if_neg hval, powMod_eq u.val 255 (P25519 - 2) (by decide +kernel)]
  exact Nat.mod_mod _ _

theorem fMul_fInv {u : Felt} (hu : u ≠ felt 0) : fMul u (fInv u) = felt 1 := by
  have := fact_prime_P25519
  refine toF_injective ?_
  rw [toF_fMul, toF_fInv hu, toF_one, mul_inv_cancel₀ (toF_ne_zero.mpr hu)]

theorem eq_fInv_of_fMul {u w : Felt} (hu : u ≠ felt 0) (hw : fMul u w = felt 1) : w = fInv u := by
  have := isDomain_F
  refine toF_injective (mul_left_cancel₀ (toF_ne_zero.mpr hu) ?_)
  rw [← toF_fMul, ← toF_fMul, hw, fMul_fInv hu]

/-- Settles O52: the sum and the product are residues by definition, and the inverse is unique as the field has no zero
divisors. -/
theorem fieldOperationsAreExact : Obligations.FieldOperationsAreExact := fun u v =>
  ⟨rfl, val_fSub u v, rfl, rfl, fun hu => ⟨fMul_fInv hu, val_fInv hu, fun _ => eq_fInv_of_fMul hu⟩⟩

end Sys2Proof.Machine
end

section
/-! The addition law on the curve: complete and closed (R176), with an identity, negatives, commutative and associative (R177). -/

namespace Sys2Proof.Machine

open Sys2Proof Sys2Proof.Laws

/-! ### Two facts about the curve over any field -/

/-- The denominators of a sum are not 0 (R176). Were t ^ 2 = 1 for t = `d * x1 * x2 * y1 * y2`, the curve equations would give
`d * (x1 * y1 * (j * x2 + y2)) ^ 2 = (j * x1 + t * y1) ^ 2` for both roots j of -1, and `j * x2 + y2` is not 0 for both of them, so
d would be a square. -/
theorem edwards_complete {K : Type} [Field K] {d i x1 y1 x2 y2 : K} (hd : ¬ IsSquare d) (hi : i ^ 2 = -1) (h20 : (2 : K) ≠ 0)
    (h1 : y1 ^ 2 - x1 ^ 2 = 1 + d * x1 ^ 2 * y1 ^ 2) (h2 : y2 ^ 2 - x2 ^ 2 = 1 + d * x2 ^ 2 * y2 ^ 2) :
    (d * x1 * x2 * y1 * y2) ^ 2 ≠ 1 := by
  intro ht
  have hx1 : x1 ≠ 0 := by rintro rfl; simp at ht
  have hy1 : y1 ≠ 0 := by rintro rfl; simp at ht
  have hy2 : y2 ≠ 0 := by rintro rfl; simp at ht
  have vanishes : ∀ j : K, j ^ 2 = -1 → j * x2 + y2 = 0 := by
    intro j hj
    by_contra hne
    have hu : x1 * y1 * (j * x2 + y2) ≠ 0 := mul_ne_zero (mul_ne_zero hx1 hy1) hne
    refine hd ⟨(j * x1 + d * x1 * x2 * y1 * y2 * y1) / (x1 * y1 * (j * x2 + y2)), ?_⟩
    rw [← sq, div_pow, eq_div_iff (pow_ne_zero 2 hu)]
    linear_combination (d * x1 ^ 2 * y1 ^ 2 * x2 ^ 2 - x1 ^ 2) * hj - h1 + d * x1 ^ 2 * y1 ^ 2 * h2 + (1 - y1 ^ 2) * ht
  have hplus : i * x2 + y2 = 0 := vanishes i hi
  have hminus : -i * x2 + y2 = 0 := vanishes (-i) (by rw [neg_sq, hi])
  exact mul_ne_zero h20 hy2 (by linear_combination hplus + hminus)

/-- A sum, cleared of its denominators, satisfies the curve equation. -/
theorem edwards_closed {K : Type} [CommRing K] {d x1 y1 x2 y2 : K}
    (h1 : y1 ^ 2 - x1 ^ 2 = 1 + d * x1 ^ 2 * y1 ^ 2) (h2 : y2 ^ 2 - x2 ^ 2 = 1 + d * x2 ^ 2 * y2 ^ 2) :
    ((y1 * y2 + x1 * x2) * (1 + d * x1 * x2 * y1 * y2)) ^ 2 - ((x1 * y2 + y1 * x2) * (1 - d * x1 * x2 * y1 * y2)) ^ 2 =
      (1 - (d * x1 * x2 * y1 * y2) ^ 2) ^ 2 + d * (x1 * y2 + y1 * x2) ^ 2 * (y1 * y2 + x1 * x2) ^ 2 := by
  linear_combination
    ((1 + d * x2 ^ 2 * y2 ^ 2) * (1 + (d * x1 * x2 * y1 * y2) ^ 2)
      - d * x2 ^ 2 * y2 ^ 2 * (y1 ^ 2 - x1 ^ 2 + 1 + d * x1 ^ 2 * y1 ^ 2)) * h1 +
    ((y1 ^ 2 - x1 ^ 2) * (1 + (d * x1 * x2 * y1 * y2) ^ 2)
      - d * x1 ^ 2 * y1 ^ 2 * (y2 ^ 2 - x2 ^ 2 + 1 + d * x2 ^ 2 * y2 ^ 2)) * h2

/-! ### The sum of two points on the curve (R176) -/

theorem edT_comm (q r : Point) : edT q r = edT r q :=
  toF_injective (by rw [toF_edT, toF_edT]; ring)

section Sum

variable {q r p : Point} (hq : onCurve q = true) (hr : onCurve r = true)
include hq hr

theorem edT_sq_ne_one : toF (edT q r) ^ 2 ≠ 1 := by
  have := fact_prime_P25519
  obtain ⟨i, hi⟩ := isSquare_neg_one
  rw [toF_edT]
  exact edwards_complete curveD_not_square (by rw [sq, hi]) two_ne_zero_F ((onCurve_iff q).mp hq) ((onCurve_iff r).mp hr)

theorem one_add_edT_ne_zero : 1 + toF (edT q r) ≠ 0 := fun h =>
  edT_sq_ne_one hq hr (by linear_combination (toF (edT q r) - 1) * h)

theorem one_sub_edT_ne_zero : 1 - toF (edT q r) ≠ 0 := fun h =>
  edT_sq_ne_one hq hr (by linear_combination (-toF (edT q r) - 1) * h)

/-- The first coordinate of the sum, cleared of its denominator. -/
theorem edAdd_x_mul : toF (edAdd q r).x * (1 + toF (edT q r)) = toF q.x * toF r.y + toF q.y * toF r.x := by
  have := fact_prime_P25519
  have hne := one_add_edT_ne_zero hq hr
  rw [toF_edAdd_x hne, inv_mul_cancel_right₀ hne]

/-- The second coordinate of the sum, cleared of its denominator. -/
theorem edAdd_y_mul : toF (edAdd q r).y * (1 - toF (edT q r)) = toF q.y * toF r.y + toF q.x * toF r.x := by
  have := fact_prime_P25519
  have hne := one_sub_edT_ne_zero hq hr
  rw [toF_edAdd_y hne, inv_mul_cancel_right₀ hne]

/-- The two cleared equations characterise the sum. -/
theorem eq_edAdd (hx : toF p.x * (1 + toF (edT q r)) = toF q.x * toF r.y + toF q.y * toF r.x)
    (hy : toF p.y * (1 - toF (edT q r)) = toF q.y * toF r.y + toF q.x * toF r.x) : p = edAdd q r := by
  have := isDomain_F
  refine point_ext (mul_right_cancel₀ (one_add_edT_ne_zero hq hr) ?_) (mul_right_cancel₀ (one_sub_edT_ne_zero hq hr) ?_)
  · rw [hx, edAdd_x_mul hq hr]
  · rw [hy, edAdd_y_mul hq hr]

theorem onCurve_edAdd : onCurve (edAdd q r) = true := by
  have := isDomain_F
  have hclosed := edwards_closed ((onCurve_iff q).mp hq) ((onCurve_iff r).mp hr)
  rw [← toF_edT, ← edAdd_x_mul hq hr, ← edAdd_y_mul hq hr] at hclosed
  have hne : (1 - toF (edT q r) ^ 2) ^ 2 ≠ 0 := pow_ne_zero 2 (sub_ne_zero.mpr (edT_sq_ne_one hq hr).symm)
  rw [onCurve_iff]
  refine mul_right_cancel₀ hne ?_
  linear_combination hclosed

theorem edAdd_comm : edAdd q r = edAdd r q := by
  refine eq_edAdd hr hq ?_ ?_
  · rw [edT_comm, edAdd_x_mul hq hr]
    ring
  · rw [edT_comm, edAdd_y_mul hq hr]
    ring

end Sum

/-- Settles O53: the formula is the definition of EdAdd, and the denominators are not 0 as D25519 is no square. -/
theorem edwardsAdditionIsComplete : Obligations.EdwardsAdditionIsComplete := fun q r hq hr => by
  refine ⟨rfl, toF_ne_zero.mp ?_, toF_ne_zero.mp ?_, onCurve_edAdd hq hr⟩
  · rw [toF_fAdd, toF_one]
    exact one_add_edT_ne_zero hq hr
  · rw [toF_fSub, toF_one]
    exact one_sub_edT_ne_zero hq hr

/-! ### The identity and the negative (R172, R177) -/

theorem onCurve_identityPoint : onCurve identityPoint = true := by decide +kernel

theorem onCurve_basePoint : onCurve basePoint = true := by decide +kernel

theorem onCurve_edNeg {q : Point} (hq : onCurve q = true) : onCurve (edNeg q) = true := by
  rw [onCurve_iff] at hq ⊢
  rw [edNeg, toF_fNeg]
  linear_combination hq

theorem edAdd_identityPoint {q : Point} (hq : onCurve q = true) : edAdd q identityPoint = q := by
  have hx : toF identityPoint.x = 0 := toF_zero
  have hy : toF identityPoint.y = 1 := toF_one
  refine (eq_edAdd hq onCurve_identityPoint ?_ ?_).symm <;> rw [toF_edT, hx, hy] <;> ring

theorem edAdd_edNeg {q : Point} (hq : onCurve q = true) : edAdd q (edNeg q) = identityPoint := by
  have hx : toF identityPoint.x = 0 := toF_zero
  have hy : toF identityPoint.y = 1 := toF_one
  have hneg : toF (edNeg q).x = -toF q.x := toF_fNeg q.x
  have hsame : toF (edNeg q).y = toF q.y := rfl
  refine (eq_edAdd hq (onCurve_edNeg hq) ?_ ?_).symm <;> rw [toF_edT, hneg, hsame]
  · rw [hx]
    ring
  · rw [hy]
    linear_combination -(onCurve_iff q).mp hq

/-- Settles O54: each law is the characterisation of the sum by its cleared equations. -/
theorem edwardsIdentityNegativeAndCommutativity : Obligations.EdwardsIdentityNegativeAndCommutativity :=
  ⟨onCurve_identityPoint, onCurve_basePoint, fun _ _ hq hr => ⟨edAdd_identityPoint hq, edAdd_edNeg hq, edAdd_comm hq hr⟩⟩

/-! ### Associativity (R177) -/

section Associativity

variable {q r t : Point} (hq : onCurve q = true) (hr : onCurve r = true) (ht : onCurve t = true)
include hq hr

/-- The number t of (Q + R) + T, cleared of the denominators of Q + R. -/
theorem edT_edAdd_mul : toF (edT (edAdd q r) t) * (1 - toF (edT q r) ^ 2) =
    toF curveD * (toF q.x * toF r.y + toF q.y * toF r.x) * (toF q.y * toF r.y + toF q.x * toF r.x) * toF t.x * toF t.y := by
  rw [toF_edT (edAdd q r) t, ← edAdd_x_mul hq hr, ← edAdd_y_mul hq hr]
  ring

include ht

/-- The first coordinate of (Q + R) + T, cleared of all denominators. -/
theorem edAdd_edAdd_x_mul : toF (edAdd (edAdd q r) t).x * ((1 + toF (edT (edAdd q r) t)) * (1 - toF (edT q r) ^ 2)) =
    (toF q.x * toF r.y + toF q.y * toF r.x) * (1 - toF (edT q r)) * toF t.y +
      (toF q.y * toF r.y + toF q.x * toF r.x) * (1 + toF (edT q r)) * toF t.x := by
  rw [← mul_assoc, edAdd_x_mul (onCurve_edAdd hq hr) ht, ← edAdd_x_mul hq hr, ← edAdd_y_mul hq hr]
  ring

/-- The second coordinate of (Q + R) + T, cleared of all denominators. -/
theorem edAdd_edAdd_y_mul : toF (edAdd (edAdd q r) t).y * ((1 - toF (edT (edAdd q r) t)) * (1 - toF (edT q r) ^ 2)) =
    (toF q.y * toF r.y + toF q.x * toF r.x) * (1 + toF (edT q r)) * toF t.y +
      (toF q.x * toF r.y + toF q.y * toF r.x) * (1 - toF (edT q r)) * toF t.x := by
  rw [← mul_assoc, edAdd_y_mul (onCurve_edAdd hq hr) ht, ← edAdd_x_mul hq hr, ← edAdd_y_mul hq hr]
  ring

/-- The cleared denominators of (Q + R) + T are not 0. -/
theorem edAdd_edAdd_denominators_ne_zero :
    (1 + toF (edT (edAdd q r) t)) * (1 - toF (edT q r) ^ 2) ≠ 0 ∧ (1 - toF (edT (edAdd q r) t)) * (1 - toF (edT q r) ^ 2) ≠ 0 := by
  have := isDomain_F
  have hne : 1 - toF (edT q r) ^ 2 ≠ 0 := sub_ne_zero.mpr (edT_sq_ne_one hq hr).symm
  exact ⟨mul_ne_zero (one_add_edT_ne_zero (onCurve_edAdd hq hr) ht) hne,
    mul_ne_zero (one_sub_edT_ne_zero (onCurve_edAdd hq hr) ht) hne⟩

end Associativity

/-- Two fractions with equal cross products are equal. -/
theorem eq_of_cross_mul {K : Type} [CommRing K] [IsDomain K] {a b c e m n : K} (hc : c ≠ 0) (he : e ≠ 0) (ha : a * c = m)
    (hb : b * e = n) (h : m * e = n * c) : a = b := by
  refine mul_right_cancel₀ (mul_ne_zero hc he) ?_
  linear_combination e * ha - c * hb + h

/-- Both sides are sums of a sum, as Q + (R + T) = (R + T) + Q; their cross products are the identities of `edwards_assoc_x` and
`edwards_assoc_y`. -/
theorem edAdd_assoc {q r t : Point} (hq : onCurve q = true) (hr : onCurve r = true) (ht : onCurve t = true) :
    edAdd (edAdd q r) t = edAdd q (edAdd r t) := by
  have := isDomain_F
  rw [edAdd_comm hq (onCurve_edAdd hr ht)]
  obtain ⟨hplus, hminus⟩ := edAdd_edAdd_denominators_ne_zero hq hr ht
  obtain ⟨hplus', hminus'⟩ := edAdd_edAdd_denominators_ne_zero hr ht hq
  refine point_ext
    (eq_of_cross_mul hplus hplus' (edAdd_edAdd_x_mul hq hr ht) (edAdd_edAdd_x_mul hr ht hq) ?_)
    (eq_of_cross_mul hminus hminus' (edAdd_edAdd_y_mul hq hr ht) (edAdd_edAdd_y_mul hr ht hq) ?_)
  · rw [one_add_mul, one_add_mul, edT_edAdd_mul hq hr, edT_edAdd_mul hr ht, toF_edT, toF_edT]
    linear_combination edwards_assoc_x _ _ _ _ _ _ _ ((onCurve_iff q).mp hq) ((onCurve_iff r).mp hr) ((onCurve_iff t).mp ht)
  · rw [one_sub_mul, one_sub_mul, edT_edAdd_mul hq hr, edT_edAdd_mul hr ht, toF_edT, toF_edT]
    linear_combination edwards_assoc_y _ _ _ _ _ _ _ ((onCurve_iff q).mp hq) ((onCurve_iff r).mp hr) ((onCurve_iff t).mp ht)

/-- Settles O59, by clearing denominators. -/
theorem edwardsAdditionIsAssociative : Obligations.EdwardsAdditionIsAssociative := fun _ _ _ => edAdd_assoc

end Sys2Proof.Machine
end

section
/-! The multiples of the base point (R180) and the loop that computes them (R181). -/

namespace Sys2Proof.Machine

open Sys2Proof Sys2Proof.Laws

theorem onCurve_edMul {q : Point} (hq : onCurve q = true) : ∀ n, onCurve (edMul n q) = true
  | 0 => onCurve_identityPoint
  | n + 1 => onCurve_edAdd (onCurve_edMul hq n) hq

theorem edMul_add {q : Point} (hq : onCurve q = true) (m : Nat) : ∀ n, edMul (m + n) q = edAdd (edMul m q) (edMul n q)
  | 0 => (edAdd_identityPoint (onCurve_edMul hq m)).symm
  | n + 1 => by
    rw [← Nat.add_assoc, edMul_succ, edMul_succ, edMul_add hq m n,
      edAdd_assoc (onCurve_edMul hq m) (onCurve_edMul hq n) hq]

/-- One iteration of the loop on a multiple of the base point appends a bit to its factor. -/
theorem edMul_append_bit (k : Nat) (b : Bool) :
    (if b then edAdd (edAdd (edMul k basePoint) (edMul k basePoint)) basePoint
      else edAdd (edMul k basePoint) (edMul k basePoint)) = edMul (2 * k + b.toNat) basePoint := by
  rw [← edMul_add onCurve_basePoint, ← two_mul]
  cases b <;> rfl

/-- The loop of R181 from a multiple of the base point: its factor followed by the low n bits of the scalar. -/
theorem mulLoop_edMul (s : Scalar) : ∀ n k,
    mulLoop s n (edMul k basePoint) = edMul (2 ^ n * k + s.toNat % 2 ^ n) basePoint
  | 0, k => by rw [mulLoop_zero, pow_zero, Nat.mod_one, one_mul, Nat.add_zero]
  | n + 1, k => by
    have hbits : 2 ^ n * (2 * k + (s.getLsbD n).toNat) + s.toNat % 2 ^ n = 2 ^ (n + 1) * k + s.toNat % 2 ^ (n + 1) := by
      rw [Nat.mod_pow_succ, BitVec.getLsbD, Nat.toNat_testBit]
      ring
    rw [mulLoop_succ, edMul_append_bit, mulLoop_edMul s n, hbits]

/-- Settles O60: the loop begins at `[0]BASE` and reads all the bits of a scalar below 2^255. -/
theorem scalarMulBaseIsTheMultipleOfBase : Obligations.ScalarMulBaseIsTheMultipleOfBase := by
  intro s hs
  rw [scalarMulBase_of_lt hs, ← edMul_zero basePoint, mulLoop_edMul, Nat.mul_zero, Nat.zero_add, Nat.mod_eq_of_lt hs]

end Sys2Proof.Machine
end

section
/-! Extended coordinates (R178, R179, R184): a quadruple refines an affine point, and the extended formulas and the extended loop
(R181) keep that relation. -/

namespace Sys2Proof.Machine

open Sys2Proof Sys2Proof.Laws

/-! ### The quadruples of a point (R178) -/

/-- The quadruple stands for the point: it is the point's coordinates and their product, times its Z. -/
structure Represents (e : ExtPoint) (p : Point) : Prop where
  z_ne : toF e.z ≠ 0
  x_eq : toF e.x = toF p.x * toF e.z
  y_eq : toF e.y = toF p.y * toF e.z
  t_eq : toF e.t = toF p.x * toF p.y * toF e.z

theorem extValid_iff (e : ExtPoint) : extValid e = true ↔ toF e.z ≠ 0 ∧ toF e.x * toF e.y = toF e.z * toF e.t := by
  have hz : (e.z.val != 0) = true ↔ toF e.z ≠ 0 := by
    rw [bne_iff_ne, toF_ne_zero]
    exact (Fin.ext_iff (a := e.z) (b := felt 0)).not.symm
  rw [extValid, Bool.and_eq_true, hz, decide_eq_true_iff, ← toF_injective.eq_iff, toF_fMul, toF_fMul]

/-- A coordinate times the inverse of Z, times Z. -/
theorem toF_fMul_fInv_mul {u z : Felt} (hz : toF z ≠ 0) : toF (fMul u (fInv z)) * toF z = toF u := by
  have := fact_prime_P25519
  rw [toF_fMul, toF_fInv (toF_ne_zero.mp hz), inv_mul_cancel_right₀ hz]

theorem represents_toAffine {e : ExtPoint} (he : extValid e = true) : Represents e (toAffine e) := by
  have := isDomain_F
  obtain ⟨hz, ht⟩ := (extValid_iff e).mp he
  have hx : toF (toAffine e).x * toF e.z = toF e.x := toF_fMul_fInv_mul hz
  have hy : toF (toAffine e).y * toF e.z = toF e.y := toF_fMul_fInv_mul hz
  refine ⟨hz, hx.symm, hy.symm, mul_left_cancel₀ hz ?_⟩
  rw [← ht, ← hx, ← hy]
  ring

theorem represents_toExt (p : Point) : Represents (toExt p) p := by
  have hz : toF (toExt p).z = 1 := toF_one
  have := fact_prime_P25519
  refine ⟨hz ▸ one_ne_zero, ?_, ?_, ?_⟩ <;> rw [hz, mul_one]
  · rfl
  · rfl
  · exact toF_fMul p.x p.y

namespace Represents

variable {e f : ExtPoint} {p r : Point}

theorem extValid (he : Represents e p) : extValid e = true := by
  rw [extValid_iff, he.x_eq, he.y_eq, he.t_eq]
  exact ⟨he.z_ne, by ring⟩

theorem toAffine_eq (he : Represents e p) : toAffine e = p := by
  have := isDomain_F
  refine point_ext (mul_right_cancel₀ he.z_ne ?_) (mul_right_cancel₀ he.z_ne ?_)
  · exact (toF_fMul_fInv_mul he.z_ne).trans he.x_eq
  · exact (toF_fMul_fInv_mul he.z_ne).trans he.y_eq

/-- The projective curve check is the affine one times the fourth power of Z (R184). -/
theorem extOnCurve_iff (he : Represents e p) : extOnCurve e = true ↔ onCurve p = true := by
  have := isDomain_F
  have hz4 : toF e.z ^ 4 ≠ 0 := pow_ne_zero 4 he.z_ne
  rw [extOnCurve, Bool.and_eq_true, decide_eq_true_iff, decide_eq_true_iff, ← toF_injective.eq_iff, ← toF_injective.eq_iff,
    onCurve_iff]
  simp only [toF_fSub, toF_fAdd, toF_fMul, he.x_eq, he.y_eq, he.t_eq]
  constructor
  · rintro ⟨h, -⟩
    refine mul_right_cancel₀ hz4 ?_
    linear_combination h
  · exact fun h => ⟨by linear_combination toF e.z ^ 4 * h, by ring⟩

end Represents

/-! ### The extended formulas (R178, R179) -/

/-- The quadruple `(E * F, G * H, F * G, E * H)` with which both formulas end stands for the sum when E over G and H over F are its
coordinates, each with a factor of its own. -/
theorem represents_quadruple {q r : Point} (hq : onCurve q = true) (hr : onCurve r = true) {e f g h : Felt} {c c' : F}
    (hc : c ≠ 0) (hc' : c' ≠ 0) (he : toF e = c * (toF q.x * toF r.y + toF q.y * toF r.x)) (hg : toF g = c * (1 + toF (edT q r)))
    (hh : toF h = c' * (toF q.y * toF r.y + toF q.x * toF r.x)) (hf : toF f = c' * (1 - toF (edT q r))) :
    Represents { x := fMul e f, y := fMul g h, z := fMul f g, t := fMul e h } (edAdd q r) := by
  have := isDomain_F
  rw [← edAdd_x_mul hq hr] at he
  rw [← edAdd_y_mul hq hr] at hh
  constructor <;> simp only [toF_fMul, he, hf, hg, hh]
  · exact mul_ne_zero (mul_ne_zero hc' (one_sub_edT_ne_zero hq hr)) (mul_ne_zero hc (one_add_edT_ne_zero hq hr))
  all_goals ring

theorem toF_two : toF (felt 2) = 2 := toF_felt 2

/-- ExtAdd: both factors are `2 * Z1 * Z2`. -/
theorem Represents.extAdd {e f : ExtPoint} {q r : Point} (he : Represents e q) (hf : Represents f r) (hq : onCurve q = true)
    (hr : onCurve r = true) : Represents (extAdd e f) (edAdd q r) := by
  have := isDomain_F
  have hc : 2 * toF e.z * toF f.z ≠ 0 := mul_ne_zero (mul_ne_zero two_ne_zero_F he.z_ne) hf.z_ne
  refine represents_quadruple hq hr hc hc ?_ ?_ ?_ ?_ <;>
    simp only [toF_fMul, toF_fAdd, toF_fSub, toF_edT, curveTwoD, toF_two, he.x_eq, he.y_eq, he.t_eq, hf.x_eq, hf.y_eq,
      hf.t_eq] <;>
    ring

/-- ExtDbl: the factors are `-Z1 ^ 2` and `Z1 ^ 2`, and by the curve equation G and F are the denominators. -/
theorem Represents.extDbl {e : ExtPoint} {q : Point} (he : Represents e q) (hq : onCurve q = true) :
    Represents (extDbl e) (edAdd q q) := by
  have := isDomain_F
  have hc : toF e.z ^ 2 ≠ 0 := pow_ne_zero 2 he.z_ne
  have hcurve := (onCurve_iff q).mp hq
  refine represents_quadruple hq hq (neg_ne_zero.mpr hc) hc ?_ ?_ ?_ ?_ <;>
    simp only [toF_fMul, toF_fAdd, toF_fSub, toF_edT, toF_two, he.x_eq, he.y_eq]
  case refine_1 | refine_3 => ring
  case refine_2 | refine_4 => linear_combination -toF e.z ^ 2 * hcurve

/-- Settles O55: what holds of the quadruples of a point holds of the valid quadruples, each standing for its affine point. -/
theorem extendedFormulasRepresentTheGroupLaw : Obligations.ExtendedFormulasRepresentTheGroupLaw := by
  refine ⟨fun e f he hf hq hr => ?_, fun e he hq => ?_, fun e he => (represents_toAffine he).extOnCurve_iff, fun p => ?_⟩
  · have hsum := (represents_toAffine he).extAdd (represents_toAffine hf) hq hr
    exact ⟨hsum.extValid, hsum.toAffine_eq⟩
  · have hdouble := (represents_toAffine he).extDbl hq
    exact ⟨hdouble.extValid, hdouble.toAffine_eq⟩
  · exact ⟨(represents_toExt p).extValid, (represents_toExt p).toAffine_eq⟩

/-! ### The loop on extended coordinates (R181) -/

/-- The extended loop refines the affine loop, iteration by iteration. -/
theorem Represents.extMulLoop (s : Scalar) : ∀ (n : Nat) {e : ExtPoint} {q : Point}, Represents e q → onCurve q = true →
    Represents (extMulLoop s n e) (mulLoop s n q)
  | 0, _, _, he, _ => he
  | n + 1, e, q, he, hq => by
    have hdouble := he.extDbl hq
    have hcurve := onCurve_edAdd hq hq
    rw [extMulLoop_succ, mulLoop_succ]
    split
    · exact Represents.extMulLoop s n (hdouble.extAdd (represents_toExt basePoint) hcurve onCurve_basePoint)
        (onCurve_edAdd hcurve onCurve_basePoint)
    · exact Represents.extMulLoop s n hdouble hcurve

/-- Settles O56: the loops begin at a quadruple of O and at O. -/
theorem extendedLoopEqualsAffineLoop : Obligations.ExtendedLoopEqualsAffineLoop := by
  intro s hs
  rw [scalarMulBase_of_lt hs]
  exact (Represents.extMulLoop s 255 (represents_toExt identityPoint) onCurve_identityPoint).toAffine_eq

end Sys2Proof.Machine
end

section
/-! The operation PMUL (R183): below 2^255 no on-curve check of its loop fails (R184), and it completes with the loop's point. -/

namespace Sys2Proof.Machine

open Sys2Proof Sys2Proof.Laws

/-! ### The on-curve checks (R184) -/

theorem checkPoint_of_onCurve {q : Point} (h : onCurve q = true) : checkPoint q = .ok q := if_pos h

theorem checkPoint_of_not_onCurve {q : Point} (h : onCurve q ≠ true) : checkPoint q = .error .curve := if_neg h

/-- From a point on the curve every check of the loop passes, as doubling and adding stay on the curve. -/
theorem checkedMulLoop_of_onCurve (s : Scalar) : ∀ (n : Nat) {q : Point}, onCurve q = true →
    checkedMulLoop s n q = .ok (mulLoop s n q)
  | 0, _, hq => checkPoint_of_onCurve hq
  | n + 1, q, hq => by
    have hdouble := onCurve_edAdd hq hq
    have hadd := onCurve_edAdd hdouble onCurve_basePoint
    rw [mulLoop_succ, checkedMulLoop, checkPoint_of_onCurve hdouble, except_bind_ok]
    cases s.getLsbD n
    · exact checkedMulLoop_of_onCurve s n hdouble
    · simp only [reduceIte, checkPoint_of_onCurve hadd, except_bind_ok]
      exact checkedMulLoop_of_onCurve s n hadd

theorem checkedMulBase_ok {s : Scalar} (hs : s.toNat < 2 ^ 255) : checkedMulBase s = .ok (scalarMulBase s) := by
  rw [checkedMulBase_of_lt hs, scalarMulBase_of_lt hs, checkedMulLoop_of_onCurve s 255 onCurve_identityPoint]

/-! ### The operation (R183) -/

theorem decode_pmul_word (p : Lane) : decode (0x80 ||| (BitVec.ofNat 8 (p.number - 1) <<< 3)) = .ok (.pmul p) := by
  rw [ofNat_number_sub_one]
  exact decode_encode (.pmul p)

theorem exec_pmul_no_scalar {s : State} {p : Lane} (h : (s.lane p).sc = none) :
    exec (.pmul p) s = .next (s.raiseFault .seq) :=
  complete_need_none s h _

section

variable {s : State} {p : Lane} {v : Scalar} (scalar : (s.lane p).sc = some v) (unwritten : (s.lane p).pt = none)
include scalar unwritten

/-- PMUL whose multiplication passes its checks writes the point. -/
theorem exec_pmul {q : Point} (multiple : checkedMulBase v = .ok q) (hu : s.upc ≠ 31) :
    exec (.pmul p) s = .next { s.setPT p q with upc := s.upc + 1 } := by
  rw [(Writes.pmul scalar unwritten multiple).exec_eq, advance_of_ne (by rwa [setPT_upc]), setPT_upc]

theorem exec_pmul_off_curve {c : FaultCode} (multiple : checkedMulBase v = .error c) :
    exec (.pmul p) s = .next (s.raiseFault c) := by
  simp only [exec, execPmul, scalar, unwritten, multiple, need_some, fresh_none, except_bind_ok, except_bind_error,
    complete_error]

end

/-- Settles O12: PMUL completes with the loop's point, and a scalar it cannot read or a written PT is SEQ. -/
theorem pmulWritesTheMultipleOfBase : Obligations.PmulWritesTheMultipleOfBase :=
  ⟨decode_pmul_word, fun _ _ _ scalar hv unwritten => exec_pmul scalar unwritten (checkedMulBase_ok hv),
    fun _ _ h => h.elim exec_pmul_no_scalar exec_pmul_written⟩

/-- Settles O13: the free value is checked once, and the check decides. -/
theorem pmulChecksTheUnstatedMultiple : Obligations.PmulChecksTheUnstatedMultiple := by
  intro s p v scalar hv unwritten hu
  have hbase := checkedMulBase_of_ge hv
  by_cases hcurve : onCurve (scalarMulBase v) = true
  · rw [if_pos hcurve]
    exact exec_pmul scalar unwritten (hbase.trans (checkPoint_of_onCurve hcurve)) hu
  · rw [if_neg hcurve]
    exact exec_pmul_off_curve scalar unwritten (hbase.trans (checkPoint_of_not_onCurve hcurve))

end Sys2Proof.Machine
end

section
/-! The encoding of a point (R190, R192), the operation PENC (R191), and BIND with a key that is no encoding (R192, R201). -/

namespace Sys2Proof.Machine

open Sys2Proof

/-! ### The encoding as a number (R190, R192) -/

/-- A canonical coordinate leaves bit 255 free. -/
theorem Felt.val_lt_two_pow (v : Felt) : v.val < 2 ^ 255 := v.isLt.trans (by decide)

theorem le256_encodePoint (q : Point) : le256 (encodePoint q) = q.y.val + 2 ^ 255 * (q.x.val % 2) := by
  have hy := Felt.val_lt_two_pow q.y
  rw [encodePoint, le256_serLE256, Nat.mod_eq_of_lt (by omega)]

theorem le256_encodePoint_mod (q : Point) : le256 (encodePoint q) % 2 ^ 255 = q.y.val := by
  rw [le256_encodePoint, Nat.add_mul_mod_self_left, Nat.mod_eq_of_lt (Felt.val_lt_two_pow q.y)]

/-- The low 255 bits of an encoding are a canonical y. -/
theorem encodePoint_ne_of_le {q : Point} {k : Bytes 32} (hk : P25519 ≤ le256 k % 2 ^ 255) : encodePoint q ≠ k := by
  rintro rfl
  rw [le256_encodePoint_mod] at hk
  exact hk.not_gt q.y.isLt

/-! ### The encoding byte by byte (R190) -/

/-- A bit put at place 255 is at place 255 - n after a shift by n. -/
theorem shiftRight_add_bit255 (y b : Nat) {n : Nat} (hn : n ≤ 255) :
    (y + 2 ^ 255 * b) >>> n = y >>> n + 2 ^ (255 - n) * b := by
  have hpow : 2 ^ 255 * b = 2 ^ n * (2 ^ (255 - n) * b) := by
    rw [← Nat.mul_assoc, ← Nat.pow_add, Nat.add_sub_cancel' hn]
  rw [hpow, Nat.shiftRight_eq_div_pow, Nat.add_mul_div_left _ _ (Nat.two_pow_pos n), Nat.shiftRight_eq_div_pow]

theorem getElem?_encodePoint (q : Point) {j : Nat} (hj : j < 32) : (encodePoint q).toList[j]? =
    some (BitVec.ofNat 8 (q.y.val >>> (8 * j) + 2 ^ (255 - 8 * j) * (q.x.val % 2))) := by
  rw [encodePoint, toList_serLE256, getElem?_serLE hj, shiftRight_add_bit255 _ _ (by omega)]

/-- Below byte 31 the sign bit lies above the byte. -/
theorem getElem?_encodePoint_low (q : Point) {j : Nat} (hj : j < 31) :
    (encodePoint q).toList[j]? = some (BitVec.ofNat 8 (q.y.val >>> (8 * j))) := by
  have hpow : 2 ^ (255 - 8 * j) * (q.x.val % 2) = 2 ^ 8 * (2 ^ (247 - 8 * j) * (q.x.val % 2)) := by
    rw [← Nat.mul_assoc, ← Nat.pow_add, show 8 + (247 - 8 * j) = 255 - 8 * j by omega]
  rw [getElem?_encodePoint q (by omega), hpow]
  congr 1
  refine BitVec.eq_of_toNat_eq ?_
  rw [BitVec.toNat_ofNat, BitVec.toNat_ofNat, Nat.add_mul_mod_self_left]

/-- In byte 31 the sign bit is bit 7, above the seven bits that y has there. -/
theorem getElem?_encodePoint_last (q : Point) :
    (encodePoint q).toList[31]? = some (BitVec.ofNat 8 ((q.y.val >>> 248) ||| ((q.x.val % 2) <<< 7))) := by
  have hy : q.y.val >>> 248 < 2 ^ 7 := by
    rw [Nat.shiftRight_eq_div_pow]
    exact Nat.div_lt_of_lt_mul (Felt.val_lt_two_pow q.y)
  rw [getElem?_encodePoint q (by decide), Nat.or_comm, ← Nat.shiftLeft_add_eq_or_of_lt hy, Nat.shiftLeft_eq,
    Nat.mul_comm (q.x.val % 2), Nat.add_comm (2 ^ 7 * _)]

/-- Settles O57: the number fits 32 bytes, and its sign bit reaches byte 31 only. -/
theorem encodingPacksTheSignBit : Obligations.EncodingPacksTheSignBit := fun q =>
  ⟨le256_encodePoint q, fun _ => getElem?_encodePoint_low q, getElem?_encodePoint_last q⟩

/-! ### Keys that differ (R192, R201) -/

theorem exec_bind_of_ne {s : State} {p : Lane} {e k : Bytes 32} (computed : (s.lane p).enc = some e)
    (supplied : s.pubkeyView p = some k) (hne : e ≠ k) : exec (.bind p) s = .next (s.raiseFault .unsat) := by
  simp only [exec, execBind, computed, supplied, need_some, decide_eq_false hne, check_false, except_bind_ok,
    except_bind_error, complete_error]

/-- Settles O58: an ENC that the value invariant holds of is an encoding, and no encoding is such a key. -/
theorem nonCanonicalKeysNeverBind : Obligations.NonCanonicalKeysNeverBind := by
  refine ⟨fun _ _ => encodePoint_ne_of_le, fun s p k hinv hwritten supplied hk => ?_⟩
  obtain ⟨e, computed⟩ := Option.ne_none_iff_exists'.mp hwritten
  obtain ⟨q, -, rfl⟩ := hinv.encoding p e computed
  exact exec_bind_of_ne computed supplied (encodePoint_ne_of_le hk)

/-! ### The operation PENC (R191) -/

theorem decode_penc_word (p : Lane) : decode (0x90 ||| (BitVec.ofNat 8 (p.number - 1) <<< 3)) = .ok (.penc p) := by
  rw [ofNat_number_sub_one]
  exact decode_encode (.penc p)

theorem exec_penc {s : State} {p : Lane} {q : Point} (point : (s.lane p).pt = some q) (unwritten : (s.lane p).enc = none)
    (hu : s.upc ≠ 31) : exec (.penc p) s = .next { s.setENC p (encodePoint q) with upc := s.upc + 1 } := by
  rw [(Writes.penc point unwritten).exec_eq, advance_of_ne (by rwa [setENC_upc]), setENC_upc]

theorem exec_penc_no_point {s : State} {p : Lane} (h : (s.lane p).pt = none) :
    exec (.penc p) s = .next (s.raiseFault .seq) :=
  complete_need_none s h _

/-- Settles O14: PENC completes with the encoding of the point, and a point it cannot read or a written ENC is SEQ. -/
theorem pencWritesTheEncoding : Obligations.PencWritesTheEncoding :=
  ⟨decode_penc_word, fun _ _ _ => exec_penc, fun _ _ h => h.elim exec_penc_no_point exec_penc_written⟩

end Sys2Proof.Machine
end

section
/-! Soundness (R206): every written register is traced to the frame's seed and path, so SAT means that both public keys are
derived. -/

namespace Sys2Proof.Machine

open Sys2Proof

/-! ### The chain of R154, level by level -/

/-- The first levels of the chain depend on the first indices only. -/
theorem chainTo_congr {m : KeyMaterial} {path path' : Level → PathIndex} :
    ∀ {n : Nat}, n ≤ 4 → (∀ l : Level, l.val < n → path' l = path l) → chainTo m path' n = chainTo m path n
  | 0, _, _ => rfl
  | n + 1, hn, h => by
    have hlevel : (Fin.ofNat 4 n).val = n := Nat.mod_eq_of_lt (by omega)
    rw [chainTo, chainTo, chainTo_congr (by omega) fun l hl => h l (by omega), h (Fin.ofNat 4 n) (by omega)]

/-- The key of the level-4 key material is the function of R204: all four levels are the chain of R154. -/
theorem encodePoint_chainTo_four (seed : Bytes 64) (path : Level → PathIndex) :
    encodePoint (scalarMulBase (clampScalar (chainTo (masterKey seed) path 4).key)) = derive seed path := rfl

/-- Where key material comes from is a property of the frame. -/
theorem DerivedAt.congr {s t : State} {p : Lane} {n : Nat} {k : KeyMaterial} (h : DerivedAt s p n k)
    (hb : t.inbuf = s.inbuf) (hc : t.incnt = s.incnt) : DerivedAt t p n k := by
  obtain ⟨seed, path, hseed, hpath, hk⟩ := h
  refine ⟨seed, path, (seedView_congr hb hc).trans hseed, fun l hl => ?_, hk⟩
  rw [pathView_congr hb hc]
  exact hpath l hl

theorem Established.congr {s t : State} {p : Lane} (h : Established s p) (hb : t.inbuf = s.inbuf)
    (hc : t.incnt = s.incnt) : Established t p := by
  obtain ⟨seed, path, hseed, hpath, hkey⟩ := h
  refine ⟨seed, path, (seedView_congr hb hc).trans hseed, fun l => ?_, (pubkeyView_congr hb hc p).trans hkey⟩
  rw [pathView_congr hb hc]
  exact hpath l

/-- One level more: the child of derived key material along the lane's next index, once that is admitted (R153, R154). -/
theorem DerivedAt.ckdPriv {s : State} {p : Lane} {l : Level} {parent : KeyMaterial} {i : PathIndex}
    (h : DerivedAt s p l.val parent) (view : s.pathView p l = some i) (admitted : indexAdmitted i = true) :
    DerivedAt s p (l.val + 1) (ckdPriv parent i) := by
  obtain ⟨seed, path, hseed, hpath, rfl⟩ := h
  have hbelow : ∀ j : Level, j.val < l.val → Function.update path l i j = path j := fun _ hj =>
    Function.update_of_ne (Fin.ne_of_lt hj) _ _
  have hlevel : Fin.ofNat 4 l.val = l := Fin.ext (Nat.mod_eq_of_lt l.isLt)
  refine ⟨seed, Function.update path l i, hseed, fun j hj => ?_, ?_⟩
  · by_cases hjl : j = l
    · subst hjl
      rw [Function.update_self]
      exact ⟨view, admitted⟩
    · have hlt : j.val < l.val := Nat.lt_of_le_of_ne (Nat.le_of_lt_succ hj) (Fin.val_ne_of_ne hjl)
      rw [hbelow j hlt]
      exact hpath j hlt
  · rw [chainTo, chainTo_congr l.isLt.le hbelow, hlevel, Function.update_self]

/-- The parent of CKD p,l in a traced state: KM0 is level 0, and the children are the levels above it (R24, R152). -/
theorem Traced.parent {s : State} (h : Traced s) {p : Lane} :
    ∀ {l : Level} {k : KeyMaterial}, s.parentKM p l = some k → DerivedAt s p l.val k
  | 0, k, hk => by
    obtain ⟨seed, hseed, rfl⟩ := h.master k hk
    exact ⟨seed, fun _ => 0, hseed, nofun, rfl⟩
  | 1, k, hk => h.child p 0 k hk
  | 2, k, hk => h.child p 1 k hk
  | 3, k, hk => h.child p 2 k hk

/-- A supplied key that equals a traced ENC is the derived key (R201, R204). -/
theorem Traced.established {s : State} (h : Traced s) {p : Lane} {e : Bytes 32} (computed : (s.lane p).enc = some e)
    (supplied : s.pubkeyView p = some e) : Established s p := by
  obtain ⟨k, ⟨seed, path, hseed, hpath, rfl⟩, rfl⟩ := h.encoding p e computed
  rw [encodePoint_chainTo_four] at supplied
  exact ⟨seed, path, hseed, fun l => hpath l l.isLt, supplied⟩

/-! ### What each operation puts into its destination (R47) -/

namespace Writes

variable {s u : State} {p : Lane}

theorem km0_written (h : Writes .mkd s u) : ∃ seed, s.seedView = some seed ∧ u.km0 = some (masterKey seed) := by
  cases h with
  | mkd view _ => exact ⟨_, view, congrArg some (splitDigest_seed _)⟩

theorem childKM_written {l : Level} (h : Writes (.ckd p l) s u) : ∃ parent i, s.parentKM p l = some parent ∧
    s.pathView p l = some i ∧ indexAdmitted i = true ∧ u.childKM p l = some (ckdPriv parent i) := by
  cases h with
  | ckd above view _ admitted =>
    refine ⟨_, _, above, view, admitted, ?_⟩
    rw [State.childKM, lane_setChildKM_same, child_setChild_same, splitDigest_ckd]

theorem sc_written (h : Writes (.clamp p) s u) :
    ∃ k, (s.lane p).km4 = some k ∧ (u.lane p).sc = some (clampScalar k.key) := by
  cases h with
  | clamp leaf _ => exact ⟨_, leaf, by rw [lane_setSC_same]⟩

theorem pt_written (h : Writes (.pmul p) s u) :
    ∃ v q, (s.lane p).sc = some v ∧ checkedMulBase v = .ok q ∧ (u.lane p).pt = some q := by
  cases h with
  | pmul scalar _ multiple => exact ⟨_, _, scalar, multiple, by rw [lane_setPT_same]⟩

theorem enc_written (h : Writes (.penc p) s u) :
    ∃ q, (s.lane p).pt = some q ∧ (u.lane p).enc = some (encodePoint q) := by
  cases h with
  | penc point _ => exact ⟨_, point, by rw [lane_setENC_same]⟩

theorem bound_written (h : Writes (.bind p) s u) :
    ∃ e, (s.lane p).enc = some e ∧ s.pubkeyView p = some e ∧ (u.lane p).bound = true := by
  cases h with
  | bind computed supplied => exact ⟨_, computed, supplied, by rw [lane_setBound_same]⟩

end Writes

/-! ### The effects keep the trace -/

/-- The multiple of a clamped scalar passes every check (R163, R184), so PMUL gives the multiple itself. -/
theorem checkedMulBase_clampScalar {k : Bytes 32} {q : Point} (h : checkedMulBase (clampScalar k) = .ok q) :
    q = scalarMulBase (clampScalar k) :=
  Except.ok.inj (h.symm.trans (checkedMulBase_ok (toNat_clampScalar_lt k)))

/-- Each derived register and each BOUND bit is written by one operation, from a register traced before it. -/
theorem Traced.writes {i : Instr} {s u : State} (h : Traced s) (hw : Writes i s u) : Traced u := by
  have derived : ∀ {p n k}, DerivedAt s p n k → DerivedAt u p n k := fun hd => hd.congr hw.inbuf_eq hw.incnt_eq
  have established : ∀ {p}, Established s p → Established u p := fun he => he.congr hw.inbuf_eq hw.incnt_eq
  have seedView : u.seedView = s.seedView := seedView_congr hw.inbuf_eq hw.incnt_eq
  constructor
  case master =>
    intro k hk
    rw [seedView]
    by_cases hi : i = .mkd
    · subst hi
      obtain ⟨seed, view, written⟩ := hw.km0_written
      exact ⟨seed, view, Option.some.inj (hk.symm.trans written)⟩
    · exact h.master k (hw.km0_eq hi ▸ hk)
  case child =>
    intro p l k hk
    by_cases hi : i = .ckd p l
    · subst hi
      obtain ⟨parent, index, above, view, admitted, written⟩ := hw.childKM_written
      obtain rfl := Option.some.inj (hk.symm.trans written)
      exact derived ((h.parent above).ckdPriv view admitted)
    · exact derived (h.child p l k (hw.childKM_eq hi ▸ hk))
  case scalar =>
    intro p v hv
    by_cases hi : i = .clamp p
    · subst hi
      obtain ⟨k, leaf, written⟩ := hw.sc_written
      exact ⟨k, derived (h.child p 3 k leaf), Option.some.inj (hv.symm.trans written)⟩
    · obtain ⟨k, hk, he⟩ := h.scalar p v (hw.sc_eq hi ▸ hv)
      exact ⟨k, derived hk, he⟩
  case point =>
    intro p q hq
    by_cases hi : i = .pmul p
    · subst hi
      obtain ⟨v, q', scalar, multiple, written⟩ := hw.pt_written
      obtain rfl := Option.some.inj (hq.symm.trans written)
      obtain ⟨k, hk, rfl⟩ := h.scalar p v scalar
      exact ⟨k, derived hk, checkedMulBase_clampScalar multiple⟩
    · obtain ⟨k, hk, he⟩ := h.point p q (hw.pt_eq hi ▸ hq)
      exact ⟨k, derived hk, he⟩
  case encoding =>
    intro p e he
    by_cases hi : i = .penc p
    · subst hi
      obtain ⟨q, point, written⟩ := hw.enc_written
      obtain ⟨k, hk, rfl⟩ := h.point p q point
      exact ⟨k, derived hk, Option.some.inj (he.symm.trans written)⟩
    · obtain ⟨k, hk, hke⟩ := h.encoding p e (hw.enc_eq hi ▸ he)
      exact ⟨k, derived hk, hke⟩
  case bound =>
    intro p hp
    by_cases hi : i = .bind p
    · subst hi
      obtain ⟨e, computed, supplied, -⟩ := hw.bound_written
      exact established (h.established computed supplied)
    · exact established (h.bound p (hw.bound_eq hi ▸ hp))

/-- The trace speaks of the frame, KM0 and the lanes. -/
theorem Traced.congr {s t : State} (h : Traced s) (hb : t.inbuf = s.inbuf) (hc : t.incnt = s.incnt) (hk : t.km0 = s.km0)
    (hl : ∀ p, t.lane p = s.lane p) : Traced t := by
  have derived : ∀ {p n k}, DerivedAt s p n k → DerivedAt t p n k := fun hd => hd.congr hb hc
  constructor
  case master => rw [hk, seedView_congr hb hc]; exact h.master
  case child => intro p l k; rw [State.childKM, hl]; exact fun hw => derived (h.child p l k hw)
  case scalar => intro p v; rw [hl]; exact fun hw => (h.scalar p v hw).imp fun _ => And.imp_left derived
  case point => intro p q; rw [hl]; exact fun hw => (h.point p q hw).imp fun _ => And.imp_left derived
  case encoding => intro p e; rw [hl]; exact fun hw => (h.encoding p e hw).imp fun _ => And.imp_left derived
  case bound => intro p; rw [hl]; exact fun hw => (h.bound p hw).congr hb hc

/-- After a wipe only the BOUND bits are left to trace, and they keep what they claim of the frame. -/
theorem Traced.wiped {s t : State} (h : Traced s) (hw : t.unwritten = true) (hb : t.inbuf = s.inbuf)
    (hc : t.incnt = s.incnt) (hbound : ∀ p, (t.lane p).bound = (s.lane p).bound) : Traced t where
  master k hk := by cases (km0_of_unwritten hw).symm.trans hk
  child p l k hk := by cases (child_of_unwritten (unwritten_lane hw p) l).symm.trans hk
  scalar p v hv := by cases (sc_of_unwritten (unwritten_lane hw p)).symm.trans hv
  point p q hq := by cases (pt_of_unwritten (unwritten_lane hw p)).symm.trans hq
  encoding p e he := by cases (enc_of_unwritten (unwritten_lane hw p)).symm.trans he
  bound p hp := (h.bound p ((hbound p).symm.trans hp)).congr hb hc

theorem bound_congr {s t : State} (h1 : t.lane1.bound = s.lane1.bound) (h2 : t.lane2.bound = s.lane2.bound) :
    ∀ p, (t.lane p).bound = (s.lane p).bound
  | .one => h1
  | .two => h2

/-- In IDLE there is nothing to trace, whatever the frame becomes. -/
theorem ControlInv.traced_of_idle {s : State} (h : ControlInv s) (hi : s.runState = .idle) : Traced s := by
  obtain ⟨-, h1, h2⟩ := h.idleCleared hi
  exact traced_of_unwritten (h.quiescentUnwritten (by simp [hi])) fun
    | .one => h1
    | .two => h2

theorem soundInv_of_idle {s : State} (h : ControlInv s) (hi : s.runState = .idle) : SoundInv s :=
  ⟨h, h.traced_of_idle hi⟩

/-- The frame changes in IDLE only, where nothing is traced; operations keep the trace, and the wipes leave the frame. -/
theorem soundInv_effectsKeep : EffectsKeep SoundInv where
  agenda s rest h := ⟨controlInv_effectsKeep.agenda s rest h.control, h.traced.congr rfl rfl rfl (lane_congr rfl rfl)⟩
  writes i s u hb hw h := ⟨controlInv_effectsKeep.writes i s u hb hw h.control, h.traced.writes hw⟩
  advances s hb h := ⟨controlInv_effectsKeep.advances s hb h.control, h.traced.congr rfl rfl rfl (lane_congr rfl rfl)⟩
  faults s c hb h := ⟨controlInv_effectsKeep.faults s c hb h.control,
    h.traced.wiped (unwritten_raiseFault s c) rfl rfl fun p => by rw [lane_raiseFault, wiped_bound]⟩
  accepts s hb h1 h2 h := ⟨controlInv_effectsKeep.accepts s hb h1 h2 h.control,
    h.traced.wiped (unwritten_wipe s) rfl rfl (bound_congr rfl rfl)⟩
  stores s b hi hn h := soundInv_of_idle (controlInv_effectsKeep.stores s b hi hn h.control) hi
  overruns s hi hn h := soundInv_of_idle (controlInv_effectsKeep.overruns s hi hn h.control) hi
  starts s hi h := ⟨controlInv_effectsKeep.starts s hi h.control, h.traced.congr rfl rfl rfl (lane_congr rfl rfl)⟩
  resets s _ := soundInv_of_idle (controlInv_resetRegisters s) rfl

/-- Settles O38: the soundness invariant, effect by effect. -/
theorem everyStepKeepsTheSoundnessInvariant : Obligations.EveryStepKeepsTheSoundnessInvariant :=
  fun _ _ => soundInv_effectsKeep.of_step

/-! ### Whole runs -/

theorem run_succ (M : Host.Core) {s t : M.State} (h : M.step s = .next t) (n : Nat) : M.run (n + 1) s = M.run n t := by
  rw [Host.Core.run, h]

/-- A run of one step more that reaches a state begins with a step. -/
theorem run_succ_next (M : Host.Core) {s t : M.State} {n : Nat} (h : M.run (n + 1) s = .next t) :
    ∃ u, M.step s = .next u ∧ M.run n u = .next t := by
  cases hs : M.step s with
  | next u => exact ⟨u, rfl, (run_succ M hs n).symm.trans h⟩
  | fault r =>
    rw [Host.Core.run, hs] at h
    cases h
  | refused r =>
    rw [Host.Core.run, hs] at h
    cases h

/-- A predicate that each single effect keeps is kept by every run. -/
theorem EffectsKeep.of_run {P : State → Prop} (k : EffectsKeep P) :
    ∀ {n : Nat} {s t : State}, P s → core.run n s = .next t → P t
  | 0, _, _, hs, h => Host.Outcome.next.inj h ▸ hs
  | _ + 1, _, _, hs, h => by
    obtain ⟨u, hstep, hrun⟩ := run_succ_next core h
    exact k.of_run (k.of_step hs hstep) hrun

/-- Settles O39: reset keeps the invariant with any program and agenda, every run keeps it, and in SAT both BOUND bits are 1. -/
theorem satMeansBothKeysAreDerived : Obligations.SatMeansBothKeysAreDerived := by
  refine ⟨fun prog agenda => soundInv_of_idle (controlInv_of_idle rfl rfl rfl rfl rfl rfl) rfl, fun s t n hs h hsat => ?_⟩
  have sound : SoundInv t := soundInv_effectsKeep.of_run hs h
  obtain ⟨h1, h2⟩ := sound.control.satBound hsat
  exact ⟨sound.traced.bound .one h1, sound.traced.bound .two h2⟩

end Sys2Proof.Machine
end

section
/-! The operations CHK, BIND and HALT (R200, R201, R202): what each checks, in its order, and how it completes. -/

namespace Sys2Proof.Machine

open Sys2Proof

/-! ### BIND (R201) -/

theorem decode_bind_word (p : Lane) : decode (0xA0 ||| (BitVec.ofNat 8 (p.number - 1) <<< 3)) = .ok (.bind p) := by
  rw [ofNat_number_sub_one]
  exact decode_encode (.bind p)

theorem exec_bind {s : State} {p : Lane} {e : Bytes 32} (computed : (s.lane p).enc = some e)
    (supplied : s.pubkeyView p = some e) (hu : s.upc ≠ 31) :
    exec (.bind p) s = .next { s.setBound p with upc := s.upc + 1 } := by
  rw [(Writes.bind computed supplied).exec_eq, advance_of_ne (by rwa [setBound_upc]), setBound_upc]

theorem exec_bind_unread {s : State} {p : Lane} (h : (s.lane p).enc = none ∨ s.pubkeyView p = none) :
    exec (.bind p) s = .next (s.raiseFault .seq) :=
  complete_need_need s h _

/-- Settles O15: BIND completes with its bit set when the two keys are equal; keys that differ are UNSAT, and a key it cannot
read is SEQ. -/
theorem bindComparesTheKeys : Obligations.BindComparesTheKeys :=
  ⟨decode_bind_word, fun _ _ _ => exec_bind, fun _ _ _ _ => exec_bind_of_ne, fun _ _ => exec_bind_unread⟩

/-! ### CHK (R200) -/

theorem pathAdmitted_iff (s : State) (p : Lane) (i : Level) :
    s.pathAdmitted p i = true ↔ ∃ v, s.pathView p i = some v ∧ v.toNat < 2 ^ 31 := by
  unfold State.pathAdmitted
  split
  · next v hv =>
    simp only [hv, Option.some.injEq, exists_eq_left']
    exact decide_eq_true_iff
  · next hv => simp [hv]

theorem pathsAdmitted_iff (s : State) (p : Lane) : s.pathsAdmitted p = true ↔ ∀ i, s.pathAdmitted p i = true := by
  simp only [State.pathsAdmitted, Bool.and_eq_true]
  constructor
  · rintro ⟨⟨⟨h0, h1⟩, h2⟩, h3⟩ i
    match i with
    | 0 => exact h0
    | 1 => exact h1
    | 2 => exact h2
    | 3 => exact h3
  · exact fun h => ⟨⟨⟨h 0, h 1⟩, h 2⟩, h 3⟩

theorem lanes_admitted_iff (s : State) :
    (s.pathsAdmitted .one && s.pathsAdmitted .two) = true ↔ ∀ p, s.pathsAdmitted p = true := by
  rw [Bool.and_eq_true]
  constructor
  · rintro ⟨h1, h2⟩ p
    cases p
    · exact h1
    · exact h2
  · exact fun h => ⟨h .one, h .two⟩

theorem exec_chk {s : State} (valid : s.incnt = 160) (admitted : ∀ p, s.pathsAdmitted p = true) (hu : s.upc ≠ 31) :
    exec .chk s = .next { s with upc := s.upc + 1 } := by
  rw [(Writes.chk ((frameValid_iff s).mpr valid) ((lanes_admitted_iff s).mpr admitted)).exec_eq, advance_of_ne hu]

theorem exec_chk_invalid {s : State} (h : s.incnt ≠ 160) : exec .chk s = .next (s.raiseFault .shape) := by
  have hvalid : s.frameValid = false := Bool.eq_false_iff.mpr (mt (frameValid_iff s).mp h)
  rw [exec, execChk, hvalid, check_false, except_bind_error, complete_error]

theorem exec_chk_not_admitted {s : State} (valid : s.incnt = 160) (h : ¬ ∀ p, s.pathsAdmitted p = true) :
    exec .chk s = .next (s.raiseFault .shape) := by
  have hadmitted : (s.pathsAdmitted .one && s.pathsAdmitted .two) = false :=
    Bool.eq_false_iff.mpr (mt (lanes_admitted_iff s).mp h)
  rw [exec, execChk, (frameValid_iff s).mpr valid, hadmitted, check_true, check_false, except_bind_ok, except_bind_error,
    complete_error]

/-- Settles O16: CHK completes with nothing written when the frame is valid and its eight indices are admitted, and each check
that fails is SHAPE. -/
theorem chkChecksTheInputShape : Obligations.ChkChecksTheInputShape := by
  refine ⟨decode_encode .chk, fun s valid hviews hu => ?_, fun s => exec_chk_invalid, fun s p i v valid view hv => ?_⟩
  · exact exec_chk valid (fun p => (pathsAdmitted_iff s p).mpr fun i => (pathAdmitted_iff s p i).mpr (hviews p i)) hu
  · refine exec_chk_not_admitted valid fun h => ?_
    obtain ⟨w, hw, hlt⟩ := (pathAdmitted_iff s p i).mp ((pathsAdmitted_iff s p).mp (h p) i)
    obtain rfl := Option.some.inj (view.symm.trans hw)
    omega

/-! ### HALT (R202) -/

theorem exec_halt_bound {s : State} (h1 : s.lane1.bound = true) (h2 : s.lane2.bound = true) :
    exec .halt s = .next { s.wipe with runState := .sat } := by
  rw [exec, execHalt, h1, h2]
  rfl

theorem exec_halt_unbound {s : State} (h : s.lane1.bound = false ∨ s.lane2.bound = false) :
    exec .halt s = .next (s.raiseFault .unbound) := by
  have hboth : (s.lane1.bound && s.lane2.bound) = false := Bool.and_eq_false_iff.mpr h
  rw [exec, execHalt, hboth]
  rfl

/-- Settles O17: HALT is one test of the two BOUND bits. -/
theorem haltDeliversTheVerdict : Obligations.HaltDeliversTheVerdict :=
  ⟨decode_encode .halt, fun _ => exec_halt_bound, fun _ => exec_halt_unbound⟩

end Sys2Proof.Machine
end

section
/-! The run of ROM_CANON (R205). Its program is in order: each operation finds its sources written and its destination
unwritten, so it completes, and only CHK and BIND decide. What the registers hold is known from the soundness invariant. -/

namespace Sys2Proof.Machine

open Sys2Proof

/-! ### Runs -/

theorem run_add (M : Host.Core) {t : M.State} (n : Nat) :
    ∀ {m : Nat} {s : M.State}, M.run m s = .next t → M.run (m + n) s = M.run n t
  | 0, s, h => by rw [Nat.zero_add, Host.Outcome.next.inj h]
  | m + 1, s, h => by
    obtain ⟨u, hstep, hrun⟩ := run_succ_next M h
    rw [Nat.add_right_comm, run_succ M hstep, run_add M n hrun]

theorem run_quiescent {s : State} (hs : s.runState ≠ .busy) (ha : s.agenda = []) : ∀ n, core.run n s = .next s
  | 0 => rfl
  | n + 1 => by
    have hstep : core.step s = .next s := (step_empty ha).trans (sequencerTurn_quiescent hs)
    rw [run_succ core hstep, run_quiescent hs ha n]

/-- A run that ends in a step stays where it ended. -/
theorem run_ends {s t f : State} {n : Nat} (hrun : core.run n s = .next t) (hstep : step t = .next f)
    (hf : f.runState ≠ .busy) (ha : f.agenda = []) {m : Nat} (hnm : n < m) : core.run m s = .next f := by
  obtain ⟨k, rfl⟩ := Nat.exists_eq_add_of_lt hnm
  rw [Nat.add_right_comm, Nat.add_assoc, run_add core _ hrun, Nat.add_comm, run_succ core hstep, run_quiescent hf ha]

/-- What is fetched from an assembled program is the operation listed at UPC (R96, R98). -/
theorem getElem?_assembleWords : ∀ {m n : Nat} {is : Program} {i : Instr}, n < m → is[n]? = some i →
    (assembleWords m is)[n]? = some (encode i)
  | _ + 1, 0, _ :: _, _, _, h => by cases h; rfl
  | _ + 1, _ + 1, _ :: _, _, hn, h => by
    rw [List.getElem?_cons_succ] at h
    rw [assembleWords, List.getElem?_cons_succ, getElem?_assembleWords (by omega) h]

theorem fetchOp_of_assemble {s : State} {is : Program} {i : Instr} (hprog : s.prog = assemble is)
    (hi : is[s.upc.toNat]? = some i) : s.fetchOp = .ok i := by
  have hword : s.fetchWord = encode i := by
    have h := getElem?_assembleWords s.upc.isLt hi
    obtain ⟨hlt, h⟩ := List.getElem?_eq_some_iff.mp h
    rw [State.fetchWord]
    simp only [hprog]
    exact h
  rw [State.fetchOp, hword, decode_encode]

/-! ### The frame that CHK passes -/

/-- The frame of a run that CHK does not stop. -/
structure WellShaped (s : State) : Prop where
  frame : FrameInv s
  valid : s.incnt = 160
  admitted : ∀ p, s.pathsAdmitted p = true

namespace WellShaped

variable {s t : State}

theorem congr (h : WellShaped s) (hb : t.inbuf = s.inbuf) (hc : t.incnt = s.incnt) : WellShaped t where
  frame := h.frame.congr hb hc
  valid := hc.trans h.valid
  admitted p := by
    simp only [State.pathsAdmitted, State.pathAdmitted, pathView_congr hb hc]
    exact h.admitted p

/-- In a valid frame every view has a value (R22, R23). -/
theorem frameBytes_isSome (h : WellShaped s) {a n : Nat} (han : a + n ≤ 160) : (s.frameBytes a n).isSome = true := by
  rw [State.frameBytes, if_pos ((frameValid_iff s).mpr h.valid), readRange_isSome]
  intro i hi
  rw [h.frame.filled, h.valid]
  show a + i < 160 ∧ a + i < 160
  omega

theorem seedView (h : WellShaped s) : ∃ seed, s.seedView = some seed :=
  Option.isSome_iff_exists.mp (by rw [State.seedView, Option.isSome_map]; exact h.frameBytes_isSome (by decide))

theorem pubkeyView (h : WellShaped s) (p : Lane) : ∃ key, s.pubkeyView p = some key := by
  refine Option.isSome_iff_exists.mp ?_
  cases p <;> rw [State.pubkeyView, Option.isSome_map] <;> exact h.frameBytes_isSome (by decide)

theorem pathView (h : WellShaped s) (p : Lane) (l : Level) : ∃ i, s.pathView p l = some i ∧ indexAdmitted i = true := by
  obtain ⟨i, view, hi⟩ := (pathAdmitted_iff s p l).mp ((pathsAdmitted_iff s p).mp (h.admitted p) l)
  exact ⟨i, view, indexAdmitted_eq_true hi⟩

end WellShaped

theorem derivedKey_congr {s t : State} (hb : t.inbuf = s.inbuf) (hc : t.incnt = s.incnt) (p : Lane) :
    t.derivedKey p = s.derivedKey p := by
  simp only [State.derivedKey, seedView_congr hb hc, pathView_congr hb hc]

/-- A traced ENC is the key that the frame derives (R204). -/
theorem Traced.derivedKey {s : State} (h : Traced s) {p : Lane} {e : Bytes 32} (computed : (s.lane p).enc = some e) :
    s.derivedKey p = some e := by
  obtain ⟨k, ⟨seed, path, hseed, hpath, rfl⟩, rfl⟩ := h.encoding p e computed
  have hview : ∀ l, s.pathView p l = some (path l) := fun l => (hpath l l.isLt).1
  have heta : (fun l : Level => if l = 0 then path 0 else if l = 1 then path 1 else if l = 2 then path 2 else path 3) = path :=
    funext fun
      | 0 | 1 | 2 | 3 => rfl
  rw [encodePoint_chainTo_four]
  simp only [State.derivedKey, hseed, hview, heta]

/-! ### Sources and destinations (R47) -/

end Sys2Proof.Machine

namespace Sys2Proof

open Sys2Proof.Machine

/-- The operation whose destination CKD p,l reads as its parent (R152). -/
def Instr.parentOf (p : Lane) : Level → Instr
  | 0 => .mkd
  | 1 => .ckd p 0
  | 2 => .ckd p 1
  | 3 => .ckd p 2

/-- The operations whose destinations an operation reads (R47). -/
def Instr.sources : Instr → List Instr
  | .ckd p l => [.parentOf p l]
  | .clamp p => [.ckd p 3]
  | .pmul p => [.clamp p]
  | .penc p => [.pmul p]
  | .bind p => [.penc p]
  | .halt => [.bind .one, .bind .two]
  | .chk | .shai | .shab | .hmac | .mkd => []

/-- The derived register or the BOUND bit that is the destination of the operation is written; no other operation has one
(R47). -/
def Instr.done (s : State) : Instr → Bool
  | .mkd => s.km0.isSome
  | .ckd p l => (s.childKM p l).isSome
  | .clamp p => (s.lane p).sc.isSome
  | .pmul p => (s.lane p).pt.isSome
  | .penc p => (s.lane p).enc.isSome
  | .bind p => (s.lane p).bound
  | .chk | .shai | .shab | .hmac | .halt => false

end Sys2Proof

namespace Sys2Proof.Machine

open Sys2Proof

theorem done_parentOf (s : State) (p : Lane) : ∀ l, (Instr.parentOf p l).done s = (s.parentKM p l).isSome
  | 0 | 1 | 2 | 3 => rfl

@[simp] theorem done_upc (s : State) (v : BitVec 5) (i : Instr) : i.done { s with upc := v } = i.done s := by
  cases i <;> simp only [Instr.done, State.childKM, lane_upc]

theorem done_of_unwritten {s : State} (h : s.unwritten = true) (hb : ∀ p, (s.lane p).bound = false) :
    ∀ i : Instr, i.done s = false
  | .mkd => by simp only [Instr.done, km0_of_unwritten h, Option.isSome_none]
  | .ckd p l => by
    simp only [Instr.done, State.childKM, child_of_unwritten (unwritten_lane h p), Option.isSome_none]
  | .clamp p => by simp only [Instr.done, sc_of_unwritten (unwritten_lane h p), Option.isSome_none]
  | .pmul p => by simp only [Instr.done, pt_of_unwritten (unwritten_lane h p), Option.isSome_none]
  | .penc p => by simp only [Instr.done, enc_of_unwritten (unwritten_lane h p), Option.isSome_none]
  | .bind p => hb p
  | .chk | .shai | .shab | .hmac | .halt => rfl

/-- A completed operation writes no destination but its own. -/
theorem Writes.done_of_ne {i j : Instr} {s u : State} (h : Writes i s u) (hne : i ≠ j) : j.done u = j.done s := by
  cases j with
  | mkd => rw [Instr.done, Instr.done, h.km0_eq hne]
  | ckd p l => rw [Instr.done, Instr.done, h.childKM_eq hne]
  | clamp p => rw [Instr.done, Instr.done, h.sc_eq hne]
  | pmul p => rw [Instr.done, Instr.done, h.pt_eq hne]
  | penc p => rw [Instr.done, Instr.done, h.enc_eq hne]
  | bind p => rw [Instr.done, Instr.done, h.bound_eq hne]
  | chk | shai | shab | hmac | halt => rfl

/-- An operation of ROM_CANON that completes has written its destination; CHK has none. -/
theorem Writes.done_self {i : Instr} {s u : State} (h : Writes i s u) (hi : i ∈ pseudoProve) (hchk : i ≠ .chk) :
    i.done u = true := by
  cases i with
  | mkd =>
    obtain ⟨_, -, written⟩ := h.km0_written
    rw [Instr.done, written, Option.isSome_some]
  | ckd p l =>
    obtain ⟨_, _, -, -, -, written⟩ := h.childKM_written
    rw [Instr.done, written, Option.isSome_some]
  | clamp p =>
    obtain ⟨_, -, written⟩ := h.sc_written
    rw [Instr.done, written, Option.isSome_some]
  | pmul p =>
    obtain ⟨_, _, -, -, written⟩ := h.pt_written
    rw [Instr.done, written, Option.isSome_some]
  | penc p =>
    obtain ⟨_, -, written⟩ := h.enc_written
    rw [Instr.done, written, Option.isSome_some]
  | bind p =>
    obtain ⟨_, -, -, written⟩ := h.bound_written
    exact written
  | chk => exact absurd rfl hchk
  | halt => exact absurd rfl h.ne_halt
  | shai | shab | hmac => exact absurd hi (by decide)

/-- An operation of ROM_CANON whose sources are written and whose destination is not completes, on a frame that CHK passes; for
BIND the keys have to be equal. -/
theorem exists_writes_of_sources {i : Instr} {s : State} (hi : i ∈ pseudoProve) (hhalt : i ≠ .halt) (shaped : WellShaped s)
    (traced : Traced s) (hsources : ∀ j ∈ i.sources, j.done s = true) (hnew : i.done s ≠ true)
    (hkeys : ∀ p, i = .bind p → s.derivedKey p = s.pubkeyView p) : ∃ u, Writes i s u := by
  cases i with
  | chk => exact ⟨_, .chk ((frameValid_iff s).mpr shaped.valid) ((lanes_admitted_iff s).mpr shaped.admitted)⟩
  | mkd =>
    obtain ⟨seed, view⟩ := shaped.seedView
    exact ⟨_, .mkd view (Option.not_isSome_iff_eq_none.mp hnew)⟩
  | ckd p l =>
    have habove := hsources _ (List.mem_singleton_self _)
    rw [done_parentOf] at habove
    obtain ⟨parent, above⟩ := Option.isSome_iff_exists.mp habove
    obtain ⟨index, view, admitted⟩ := shaped.pathView p l
    exact ⟨_, .ckd above view (Option.not_isSome_iff_eq_none.mp hnew) admitted⟩
  | clamp p =>
    obtain ⟨k, leaf⟩ := Option.isSome_iff_exists.mp (hsources _ (List.mem_singleton_self _))
    exact ⟨_, .clamp leaf (Option.not_isSome_iff_eq_none.mp hnew)⟩
  | pmul p =>
    obtain ⟨v, scalar⟩ := Option.isSome_iff_exists.mp (hsources _ (List.mem_singleton_self _))
    obtain ⟨k, -, rfl⟩ := traced.scalar p v scalar
    exact ⟨_, .pmul scalar (Option.not_isSome_iff_eq_none.mp hnew) (checkedMulBase_ok (toNat_clampScalar_lt k.key))⟩
  | penc p =>
    obtain ⟨q, point⟩ := Option.isSome_iff_exists.mp (hsources _ (List.mem_singleton_self _))
    exact ⟨_, .penc point (Option.not_isSome_iff_eq_none.mp hnew)⟩
  | bind p =>
    obtain ⟨e, computed⟩ := Option.isSome_iff_exists.mp (hsources _ (List.mem_singleton_self _))
    exact ⟨_, .bind computed ((hkeys p rfl).symm.trans (traced.derivedKey computed))⟩
  | halt => exact absurd rfl hhalt
  | shai | shab | hmac => exact absurd hi (by decide)

/-! ### The program in order (R101) -/

/-- Each operation of ROM_CANON comes once, after those whose destinations it reads. -/
theorem pseudoProve_ordered : ∀ n < 19, ∀ i ∈ pseudoProve[n]?,
    i ∉ pseudoProve.take n ∧ (∀ j ∈ i.sources, j ≠ .chk ∧ j ∈ pseudoProve.take n) ∧ (n < 18 → i ≠ .halt) := by decide

/-- The run of ROM_CANON from `s₀`, before its operation `n`: the frame is that of `s₀`, and the destinations written are those
of the operations before `n`. -/
structure RomAt (s₀ : State) (n : Nat) (s : State) : Prop where
  busy : s.runState = .busy
  agenda : s.agenda = []
  prog : s.prog = assemble pseudoProve
  index : s.upc.toNat = n
  inbuf : s.inbuf = s₀.inbuf
  incnt : s.incnt = s₀.incnt
  sound : SoundInv s
  done : ∀ i : Instr, i.done s = true ↔ i ≠ .chk ∧ i ∈ pseudoProve.take n

namespace RomAt

variable {s₀ s : State} {n : Nat} {i : Instr}

theorem step_eq (h : RomAt s₀ n s) (hi : pseudoProve[n]? = some i) : step s = exec i s := by
  rw [step_empty h.agenda, sequencerTurn_busy h.busy (fetchOp_of_assemble h.prog (h.index.symm ▸ hi))]

theorem upc_eq (h : RomAt s₀ n s) {v : BitVec 5} (hv : v.toNat = n) : s.upc = v :=
  BitVec.eq_of_toNat_eq (h.index.trans hv.symm)

/-- The operation at `n` finds its sources written and its destination not. -/
theorem ready (h : RomAt s₀ n s) (hn : n < 19) (hi : pseudoProve[n]? = some i) :
    (∀ j ∈ i.sources, j.done s = true) ∧ i.done s ≠ true := by
  obtain ⟨hnew, hsources, -⟩ := pseudoProve_ordered n hn i hi
  exact ⟨fun j hj => (h.done j).mpr (hsources j hj), fun hdone => hnew ((h.done i).mp hdone).2⟩

/-- A completed operation takes the run on to the next. -/
theorem next (h : RomAt s₀ n s) (hn : n < 18) (hi : pseudoProve[n]? = some i) {u : State} (hw : Writes i s u) :
    ∃ t, step s = .next t ∧ RomAt s₀ (n + 1) t := by
  have hupc : u.upc.toNat = n := hw.upc_eq ▸ h.index
  have hne : u.upc ≠ 31 := fun h31 => by
    rw [h31] at hupc
    have h31n : 31 = n := hupc
    omega
  have hstep : step s = .next { u with upc := u.upc + 1 } := by
    rw [h.step_eq hi, hw.exec_eq, advance_of_ne hne]
  have hmem : ∀ j, j ∈ pseudoProve.take (n + 1) ↔ j ∈ pseudoProve.take n ∨ j = i := by
    simp [List.take_add_one, hi]
  refine ⟨_, hstep, ?_⟩
  constructor
  case busy => exact hw.runState_eq.trans h.busy
  case agenda => exact hw.agenda_eq.trans h.agenda
  case prog => exact hw.prog_eq.trans h.prog
  case index =>
    show (u.upc + 1).toNat = n + 1
    rw [BitVec.toNat_add, hupc]
    show (n + 1) % 32 = n + 1
    omega
  case inbuf => exact hw.inbuf_eq.trans h.inbuf
  case incnt => exact hw.incnt_eq.trans h.incnt
  case sound => exact soundInv_effectsKeep.of_step h.sound hstep
  case done =>
    intro j
    rw [done_upc, hmem]
    by_cases hji : j = i
    · subst hji
      by_cases hchk : j = .chk
      · simp [hchk, Instr.done]
      · simp [hchk, hw.done_self (List.mem_of_getElem? hi) hchk]
    · rw [hw.done_of_ne (Ne.symm hji), h.done]
      simp [hji]

/-- A fault at `n` ends the run with its code and `n`. -/
theorem verdict_raiseFault (h : RomAt s₀ n s) (c : FaultCode) {v : BitVec 5} (hv : v.toNat = n) :
    (s.raiseFault c).verdict = ⟨.fail, .raised c, v⟩ := by
  rw [State.verdict, raiseFault_upc, h.upc_eq hv]
  rfl

end RomAt

/-- A started run of ROM_CANON is before its first operation. -/
theorem romAt_zero {s : State} (hstarted : s.started = true) (hprog : s.prog = romCanon) : RomAt s 0 s := by
  simp only [State.started, State.running, Bool.and_eq_true, decide_eq_true_eq, Bool.not_eq_true'] at hstarted
  obtain ⟨⟨⟨⟨⟨⟨hbusy, hagenda⟩, herr⟩, hupc⟩, hunwritten⟩, h1⟩, h2⟩ := hstarted
  have hbound : ∀ p, (s.lane p).bound = false := fun
    | .one => h1
    | .two => h2
  exact {
    busy := hbusy, agenda := hagenda, prog := hprog.trans assemble_pseudoProve.symm, index := by rw [hupc]; rfl
    inbuf := rfl, incnt := rfl
    sound := ⟨controlInv_of_busy hbusy herr, traced_of_unwritten hunwritten hbound⟩
    done := fun i => by simp [done_of_unwritten hunwritten hbound i] }

/-- On a frame that CHK passes the run reaches operation `n`, if the keys of the BINDs before it are equal. -/
theorem exists_romAt {s : State} (start : RomAt s 0 s) (shaped : WellShaped s) : ∀ {n : Nat}, n ≤ 18 →
    (∀ p, .bind p ∈ pseudoProve.take n → s.derivedKey p = s.pubkeyView p) → ∃ t, core.run n s = .next t ∧ RomAt s n t
  | 0, _, _ => ⟨s, rfl, start⟩
  | n + 1, hn, hkeys => by
    have hbefore : ∀ j, j ∈ pseudoProve.take n → j ∈ pseudoProve.take (n + 1) :=
      fun j hj => (List.take_sublist_take_left (Nat.le_succ n)).subset hj
    obtain ⟨t, hrun, ht⟩ := exists_romAt start shaped (Nat.le_of_succ_le hn) fun p hp => hkeys p (hbefore _ hp)
    have hlen : n < pseudoProve.length := Nat.lt_of_lt_of_le hn (by decide)
    have hi : pseudoProve[n]? = some pseudoProve[n] := List.getElem?_eq_getElem hlen
    obtain ⟨-, -, hhalt⟩ := pseudoProve_ordered n (by omega) _ hi
    obtain ⟨hsources, hnew⟩ := ht.ready (by omega) hi
    obtain ⟨u, hw⟩ := exists_writes_of_sources (List.getElem_mem hlen) (hhalt hn) (shaped.congr ht.inbuf ht.incnt)
      ht.sound.traced hsources hnew fun p hp => by
        rw [derivedKey_congr ht.inbuf ht.incnt, pubkeyView_congr ht.inbuf ht.incnt]
        exact hkeys p (by rw [List.take_add_one, hi, hp]; simp)
    obtain ⟨t', hstep, ht'⟩ := ht.next hn hi hw
    exact ⟨t', by rw [run_add core 1 hrun]; exact run_succ core hstep 0, ht'⟩

/-! ### How the run ends (R205) -/

/-- A fault at operation `n` ends the run with its code and `n`. -/
theorem RomAt.run_fault {s t : State} {n : Nat} {i : Instr} {c : FaultCode} {v : BitVec 5} (h : RomAt s n t)
    (hrun : core.run n s = .next t) (hi : pseudoProve[n]? = some i) (hexec : exec i t = .next (t.raiseFault c))
    (hv : v.toNat = n) (hn : n < 19) :
    ∃ f, core.run 19 s = .next f ∧ f.verdict = ⟨.fail, .raised c, v⟩ ∧ f.unwritten = true :=
  ⟨_, run_ends hrun ((h.step_eq hi).trans hexec) (by simp) h.agenda hn, h.verdict_raiseFault c hv, unwritten_raiseFault t c⟩

/-- BIND with a derived key that differs from the supplied one ends the run with UNSAT. -/
theorem RomAt.run_unsat {s t : State} {n : Nat} {p : Lane} {v : BitVec 5} (h : RomAt s n t) (hrun : core.run n s = .next t)
    (shaped : WellShaped s) (hi : pseudoProve[n]? = some (.bind p)) (hne : s.derivedKey p ≠ s.pubkeyView p)
    (hv : v.toNat = n) (hn : n < 19) :
    ∃ f, core.run 19 s = .next f ∧ f.verdict = ⟨.fail, .raised .unsat, v⟩ ∧ f.unwritten = true := by
  obtain ⟨e, computed⟩ := Option.isSome_iff_exists.mp ((h.ready hn hi).1 _ (List.mem_singleton_self _))
  obtain ⟨key, supplied⟩ := shaped.pubkeyView p
  have hek : e ≠ key := by
    rintro rfl
    rw [← derivedKey_congr h.inbuf h.incnt, h.sound.traced.derivedKey computed, supplied] at hne
    exact hne rfl
  exact h.run_fault hrun hi (exec_bind_of_ne computed ((pubkeyView_congr h.inbuf h.incnt p).trans supplied) hek) hv hn

/-- HALT with every operation before it completed ends the run with SAT. -/
theorem RomAt.run_sat {s t : State} (h : RomAt s 18 t) (hrun : core.run 18 s = .next t) :
    ∃ f, core.run 19 s = .next f ∧ f.verdict = ⟨.sat, .noFault, 18⟩ ∧ f.unwritten = true := by
  have hi : pseudoProve[18]? = some .halt := rfl
  have hbound : ∀ j ∈ Instr.sources .halt, j.done t = true := (h.ready (by decide) hi).1
  have hstep := (h.step_eq hi).trans
    (exec_halt_bound (hbound (.bind .one) (by decide)) (hbound (.bind .two) (by decide)))
  refine ⟨_, run_ends hrun hstep (by simp) h.agenda (by decide), ?_, unwritten_wipe t⟩
  show Verdict.mk .sat t.err t.upc = _
  rw [h.sound.control.err_of_busy h.busy, h.upc_eq (v := 18) rfl]

/-- The first BIND of ROM_CANON is at 9, and the only other one at 17. -/
theorem bind_not_mem_take_nine : ∀ p, Instr.bind p ∉ pseudoProve.take 9
  | .one | .two => by decide

theorem eq_one_of_bind_mem_take_seventeen : ∀ {p}, Instr.bind p ∈ pseudoProve.take 17 → p = .one
  | .one, _ => rfl
  | .two, h => absurd h (by decide)

/-- Settles O41: the conditions of the table in their order, and the operation that each of them stops the run at. -/
theorem romCanonGivesTheTabledVerdict : Obligations.RomCanonGivesTheTabledVerdict := by
  intro s hstarted hprog hframe
  have start := romAt_zero hstarted hprog
  have wellShaped : ¬ s.incnt ≠ 160 → ¬ (!(s.pathsAdmitted .one && s.pathsAdmitted .two)) = true → WellShaped s :=
    fun hvalid hadmitted => ⟨hframe, not_not.mp hvalid, (lanes_admitted_iff s).mp (by simpa using hadmitted)⟩
  unfold State.romVerdict
  split_ifs with hvalid hadmitted hkey1 hkey2
  · exact start.run_fault (i := .chk) rfl rfl (exec_chk_invalid hvalid) rfl (by decide)
  · have hnot : ¬ ∀ p, s.pathsAdmitted p = true := fun h => by simp [h] at hadmitted
    exact start.run_fault (i := .chk) rfl rfl (exec_chk_not_admitted (not_not.mp hvalid) hnot) rfl (by decide)
  · have shaped := wellShaped hvalid hadmitted
    obtain ⟨t, hrun, ht⟩ := exists_romAt start shaped (n := 9) (by decide) fun p hp => absurd hp (bind_not_mem_take_nine p)
    exact ht.run_unsat hrun shaped rfl hkey1 rfl (by decide)
  · have shaped := wellShaped hvalid hadmitted
    obtain ⟨t, hrun, ht⟩ := exists_romAt start shaped (n := 17) (by decide) fun p hp =>
      eq_one_of_bind_mem_take_seventeen hp ▸ not_not.mp hkey1
    exact ht.run_unsat hrun shaped rfl hkey2 rfl (by decide)
  · obtain ⟨t, hrun, ht⟩ := exists_romAt start (wellShaped hvalid hadmitted) (n := 18) le_rfl fun p _ => by
      cases p
      · exact not_not.mp hkey1
      · exact not_not.mp hkey2
    exact ht.run_sat hrun

end Sys2Proof.Machine
end

section
/-! Operations of different lanes (R260 (c)): an operation of a lane reads its own lane, KM0 and the frame, and writes only in its
own lane besides the unit registers, so it finds and leaves the same on both sides of an operation of the other lane. -/

namespace Sys2Proof.Machine

open Sys2Proof

/-! ### What an operation of a lane reads (R47) -/

/-- Two states agree on what the operations of lane p read: the frame, KM0 and the registers of the lane. -/
structure AgreeOnLane (p : Lane) (s t : State) : Prop where
  inbuf : t.inbuf = s.inbuf
  incnt : t.incnt = s.incnt
  km0 : t.km0 = s.km0
  lane : t.lane p = s.lane p

theorem AgreeOnLane.symm {p : Lane} {s t : State} (h : AgreeOnLane p s t) : AgreeOnLane p t s :=
  ⟨h.inbuf.symm, h.incnt.symm, h.km0.symm, h.lane.symm⟩

theorem AgreeOnLane.parentKM {p : Lane} {s t : State} (h : AgreeOnLane p s t) :
    ∀ l : Level, t.parentKM p l = s.parentKM p l
  | 0 => h.km0
  | 1 => congrArg LaneRegs.km1 h.lane
  | 2 => congrArg LaneRegs.km2 h.lane
  | 3 => congrArg LaneRegs.km3 h.lane

/-- The advance of UPC is nothing that the operations of a lane read. -/
theorem AgreeOnLane.upc {p : Lane} {s t : State} (h : AgreeOnLane p s t) (v : BitVec 5) :
    AgreeOnLane p s { t with upc := v } :=
  ⟨h.inbuf, h.incnt, h.km0, (lane_upc t v p).trans h.lane⟩

namespace Writes

variable {i : Instr} {p : Lane} {s t u : State}

/-- An operation of a lane does not write KM0. -/
theorem km0_eq_of_lane (h : Writes i s u) (hi : laneOf? i = some p) : u.km0 = s.km0 :=
  h.km0_eq fun e => by subst e; cases hi

/-- What the operations of one lane read is not written by an operation of another lane. -/
theorem agreeOnLane (h : Writes i s u) (hi : laneOf? i = some p) {q : Lane} (hpq : p ≠ q) : AgreeOnLane q s u where
  inbuf := h.inbuf_eq
  incnt := h.incnt_eq
  km0 := h.km0_eq_of_lane hi
  lane := h.lane_eq fun e => hpq (Option.some.inj (hi.symm.trans e))

/-- An operation of a lane completes in every state that agrees on what it reads, and leaves the lane the same. -/
theorem of_agreeOnLane (h : Writes i s u) (hi : laneOf? i = some p) (a : AgreeOnLane p s t) :
    ∃ w, Writes i t w ∧ w.lane p = u.lane p := by
  cases h with
  | chk | shai | shab | hmac | mkd => cases hi
  | @ckd _ _ l _ _ above view unwritten admitted =>
    cases hi
    have above' := (a.parentKM l).trans above
    have view' := (pathView_congr a.inbuf a.incnt p l).trans view
    have unwritten' := (congrArg (LaneRegs.child · l) a.lane).trans unwritten
    refine ⟨_, .ckd above' view' unwritten' admitted, ?_⟩
    rw [lane_setChildKM_same, lane_setChildKM_same, lane_loadHmac, lane_loadHmac, a.lane]
  | clamp leaf unwritten =>
    cases hi
    rw [← a.lane] at leaf unwritten
    exact ⟨_, .clamp leaf unwritten, by rw [lane_setSC_same, lane_setSC_same, a.lane]⟩
  | pmul scalar unwritten multiple =>
    cases hi
    rw [← a.lane] at scalar unwritten
    exact ⟨_, .pmul scalar unwritten multiple, by rw [lane_setPT_same, lane_setPT_same, a.lane]⟩
  | penc point unwritten =>
    cases hi
    rw [← a.lane] at point unwritten
    exact ⟨_, .penc point unwritten, by rw [lane_setENC_same, lane_setENC_same, a.lane]⟩
  | bind computed supplied =>
    cases hi
    rw [← a.lane] at computed
    rw [← pubkeyView_congr a.inbuf a.incnt] at supplied
    exact ⟨_, .bind computed supplied, by rw [lane_setBound_same, lane_setBound_same, a.lane]⟩

/-- An operation that completes below index 31 goes on to the next index. -/
theorem exec_of_ne (h : Writes i s u) (hs : s.upc ≠ 31) : exec i s = .next { u with upc := s.upc + 1 } := by
  have hu := h.upc_eq
  rw [h.exec_eq, advance_of_ne (hu ▸ hs), hu]

end Writes

/-! ### The exchange (R260 (c)) -/

/-- Two different lanes are all the lanes. -/
theorem lanes_eq_of_ne {p q : Lane} (hpq : p ≠ q) {s t : State} (hp : t.lane p = s.lane p) (hq : t.lane q = s.lane q) :
    t.lane1 = s.lane1 ∧ t.lane2 = s.lane2 := by
  cases p <;> cases q
  · exact absurd rfl hpq
  · exact ⟨hp, hq⟩
  · exact ⟨hq, hp⟩
  · exact absurd rfl hpq

/-- Settles O42: with `i` first or `j` first, each of the two finds its own lane, KM0 and the frame as they were, and the other
one leaves what it wrote. -/
theorem lanesAreIndependent : Obligations.LanesAreIndependent := by
  intro i j p q s t1 t2 hi hj hpq hs hexec1 hbusy1 hexec2 hbusy2
  obtain ⟨w1, hw1, hupc, rfl⟩ := exec_busy hexec1 hbusy1
  obtain ⟨w2, hw2, hupc1, rfl⟩ := exec_busy hexec2 hbusy2
  have beforeJ : AgreeOnLane q s { w1 with upc := s.upc + 1 } := (hw1.agreeOnLane hi hpq).upc _
  obtain ⟨v1, hv1, laneJ⟩ := hw2.of_agreeOnLane hj beforeJ.symm
  have beforeI : AgreeOnLane p s { v1 with upc := s.upc + 1 } := (hv1.agreeOnLane hj hpq.symm).upc _
  obtain ⟨v2, hv2, laneI⟩ := hw1.of_agreeOnLane hi beforeI
  have keptI : w2.lane p = w1.lane p := (hw2.agreeOnLane hj hpq.symm).lane.trans (lane_upc w1 _ p)
  have keptJ : v2.lane q = v1.lane q := (hv2.agreeOnLane hi hpq).lane.trans (lane_upc v1 _ q)
  obtain ⟨hlane1, hlane2⟩ := lanes_eq_of_ne hpq (laneI.trans keptI.symm) (keptJ.trans laneJ)
  refine ⟨_, _, hv1.exec_of_ne hupc, hv2.exec_of_ne hupc1, ?_, ?_, hlane1, hlane2, rfl⟩
  · exact hv2.runState_eq.trans (hv1.runState_eq.trans hs)
  · calc v2.km0 = v1.km0 := hv2.km0_eq_of_lane hi
      _ = s.km0 := hv1.km0_eq_of_lane hj
      _ = w1.km0 := (hw1.km0_eq_of_lane hi).symm
      _ = w2.km0 := (hw2.km0_eq_of_lane hj).symm

end Sys2Proof.Machine
end

section
/-! The end of every operation and of every run: no operation is stuck (R238), and UPC rises until the run ends (R265). -/

namespace Sys2Proof.Machine

open Sys2Proof

/-! ### Every step answers a next state (R238) -/

theorem complete_answers (s : State) (r : Except FaultCode State) : ∃ t, complete s r = .next t := by
  cases r with
  | ok u => exact ⟨_, rfl⟩
  | error c => exact ⟨_, rfl⟩

theorem exec_answers (i : Instr) (s : State) : ∃ t, exec i s = .next t := by
  cases i with
  | halt =>
    simp only [exec, execHalt]
    split
    · exact ⟨_, rfl⟩
    · exact ⟨_, rfl⟩
  | shai => exact ⟨_, Writes.shai.exec_eq⟩
  | chk | shab | hmac | mkd | ckd | clamp | pmul | penc | bind => exact complete_answers s _

theorem sequencerTurn_answers (s : State) : ∃ t, sequencerTurn s = .next t := by
  obtain ⟨-, i, -, h⟩ | ⟨-, e, -, h⟩ | ⟨-, h⟩ := sequencerTurn_cases s
  · exact h ▸ exec_answers i s
  · exact ⟨_, h⟩
  · exact ⟨_, h⟩

theorem step_answers (s : State) : ∃ t, step s = .next t := by
  match ha : s.agenda with
  | [] => exact step_empty ha ▸ sequencerTurn_answers s
  | .sequencer :: rest => exact step_sequencer ha ▸ sequencerTurn_answers _
  | .host a :: rest => exact ⟨_, step_host ha⟩
  | .resetInput :: rest => exact ⟨_, step_reset ha⟩

/-- Settles O5: an operation ends in `complete` or in the verdict of HALT, and the other turns are total functions. -/
theorem everyStepAnswersANextState : Obligations.EveryStepAnswersANextState :=
  ⟨exec_answers, step_answers⟩

/-! ### A run ends (R265) -/

/-- A turn of the sequencer leaves the turns to come alone. -/
theorem sequencerTurn_agenda {s t : State} (h : sequencerTurn s = .next t) : t.agenda = s.agenda := by
  obtain ⟨-, i, u, -, hw, rfl⟩ | ⟨-, c, rfl⟩ | ⟨-, -, -, -, rfl⟩ | ⟨-, rfl⟩ := sequencerTurn_next h
  · rw [advance_agenda, hw.agenda_eq]
  · rfl
  · rfl
  · rfl

/-- A turn of the sequencer that leaves the run going on has advanced UPC by one, without wrapping. -/
theorem sequencerTurn_upc {s t : State} (h : sequencerTurn s = .next t) (ht : t.runState = .busy) :
    t.upc.toNat = s.upc.toNat + 1 := by
  obtain ⟨-, i, u, -, hw, rfl⟩ | ⟨-, c, rfl⟩ | ⟨-, -, -, -, rfl⟩ | ⟨hb, rfl⟩ := sequencerTurn_next h
  · obtain ⟨hu, ha⟩ := advance_busy ht
    rw [ha, ← hw.upc_eq]
    show (u.upc + 1).toNat = u.upc.toNat + 1
    bv_omega
  · cases ht
  · cases ht
  · exact absurd ht hb

/-- As many turns as there are indices from UPC on end a run of the sequencer alone. -/
theorem exists_run_ended : ∀ {n : Nat} {s : State}, s.agenda = [] → 32 ≤ s.upc.toNat + n →
    ∃ t : State, core.run n s = .next t ∧ t.runState ≠ .busy
  | 0, s, _, hn => absurd s.upc.isLt (by omega)
  | n + 1, s, ha, hn => by
    obtain ⟨t, hturn⟩ := sequencerTurn_answers s
    have hstep : core.step s = .next t := (step_empty ha).trans hturn
    have hta : t.agenda = [] := (sequencerTurn_agenda hturn).trans ha
    rw [run_succ core hstep]
    by_cases hb : t.runState = .busy
    · have hupc := sequencerTurn_upc hturn hb
      exact exists_run_ended hta (by omega)
    · exact ⟨t, run_quiescent hb hta n, hb⟩

/-- Settles O40: 32 turns are enough from any index. -/
theorem everyRunEndsWithin32Steps : Obligations.EveryRunEndsWithin32Steps :=
  fun _ _ ha => exists_run_ended ha (Nat.le_add_left 32 _)

end Sys2Proof.Machine
end

section
/-! Faults: fault entry (R226, R227), what an operation that ends in FAIL leaves (R231), and the SEQ checks (R224). -/

namespace Sys2Proof.Machine

open Sys2Proof

/-! ### Fault entry (R226, R227) -/

/-- Settles O18: fault entry register by register, and FAIL in the two lines and in the sequencer's turn. -/
theorem faultEntryWipesAndStops : Obligations.FaultEntryWipesAndStops := by
  intro s c
  have hdone : (s.raiseFault c).doneLine = true := (doneLine_iff _).mpr (.inr (raiseFault_runState s c))
  have hsat : (s.raiseFault c).satLine = false := by simp [State.satLine]
  have hstops : sequencerTurn (s.raiseFault c) = .next (s.raiseFault c) := sequencerTurn_quiescent (by simp)
  exact ⟨unwritten_raiseFault s c, raiseFault_err s c, raiseFault_runState s c, hdone, hsat, raiseFault_upc s c,
    fun p => by rw [lane_raiseFault, wiped_bound], raiseFault_inbuf s c, raiseFault_incnt s c, raiseFault_prog s c,
    raiseFault_agenda s c, hstops⟩

/-! ### An operation that ends in FAIL (R231) -/

/-- An operation that ends a run in FAIL takes its fault with nothing written, or it runs off the end with its writes made. -/
theorem exec_fail {i : Instr} {s t : State} (hs : s.runState = .busy) (h : exec i s = .next t) (ht : t.runState = .fail) :
    (∃ c, t = s.raiseFault c) ∨ ∃ u, Writes i s u ∧ s.upc = 31 ∧ t = u.raiseFault .illop := by
  obtain ⟨u, hw, rfl⟩ | hfault | ⟨-, -, -, rfl⟩ := exec_cases h
  · obtain ⟨-, ha⟩ | ⟨h31, ha⟩ := advance_cases u <;> rw [ha] at ht ⊢
    · cases ht.symm.trans (hw.runState_eq.trans hs)
    · exact .inr ⟨u, hw, hw.upc_eq ▸ h31, rfl⟩
  · exact .inl hfault
  · cases ht

/-- Settles O21: either way the end is a fault entry, and of what it keeps only BIND has written anything. -/
theorem faultingOperationLeavesOnlyTheFault : Obligations.FaultingOperationLeavesOnlyTheFault := by
  intro i s t hs h ht
  obtain ⟨c, rfl⟩ | ⟨u, hw, h31, rfl⟩ := exec_fail hs h ht
  · exact ⟨unwritten_raiseFault s c, ⟨c, rfl⟩, rfl, rfl, fun _ => rfl, rfl, rfl,
      fun p => .inl (by rw [lane_raiseFault, wiped_bound])⟩
  · refine ⟨unwritten_raiseFault u _, ⟨_, rfl⟩, hw.upc_eq, hw.incnt_eq, fun a => congrArg (Memory.read · a) hw.inbuf_eq,
      hw.prog_eq, hw.agenda_eq, fun p => ?_⟩
    rw [lane_raiseFault, wiped_bound]
    by_cases hi : i = .bind p
    · exact .inr ⟨hi, h31⟩
    · exact .inl (hw.bound_eq hi)

/-! ### The SEQ checks (R224) -/

section

variable {α β : Type} {r : Option α} {q : Option β}

/-- Two `need`s: one of them fails, or both registers have a value. -/
theorem need_need_eq_false : (r.isSome && q.isSome) = false ↔ r = none ∨ q = none := by
  rw [Bool.and_eq_false_iff, Option.isSome_eq_false_iff, Option.isSome_eq_false_iff, Option.isNone_iff_eq_none,
    Option.isNone_iff_eq_none]

theorem need_need_eq_true : (r.isSome && q.isSome) = true ↔ (∃ v, r = some v) ∧ ∃ w, q = some w := by
  simp [Option.isSome_iff_exists]

/-- `need` and `fresh`: one of them fails, or the source has a value and the destination has none. -/
theorem need_fresh_eq_false : (r.isSome && q.isNone) = false ↔ r = none ∨ q ≠ none := by
  rw [Bool.and_eq_false_iff, Option.isSome_eq_false_iff, Option.isNone_eq_false_iff, Option.isNone_iff_eq_none,
    Option.isSome_iff_ne_none]

theorem need_fresh_eq_true : (r.isSome && q.isNone) = true ↔ (∃ v, r = some v) ∧ q = none := by
  simp [Option.isSome_iff_exists]

end

/-- An operation one of whose SEQ checks fails is the fault entry. -/
theorem exec_of_seqChecksFail {s : State} : ∀ {i : Instr}, seqChecksPass i s = false →
    exec i s = .next (s.raiseFault .seq)
  | .shab, h => exec_shab_unwritten (need_need_eq_false.mp h)
  | .hmac, h => exec_hmac_unwritten (need_need_eq_false.mp h)
  | .mkd, h => (need_fresh_eq_false.mp h).elim exec_mkd_invalid exec_mkd_written
  | .ckd _ _, h => (Bool.and_eq_false_iff.mp h).elim (fun hread => exec_ckd_unread (need_need_eq_false.mp hread))
      fun hfresh => exec_ckd_written (Option.isSome_iff_ne_none.mp (Option.isNone_eq_false_iff.mp hfresh))
  | .clamp _, h => (need_fresh_eq_false.mp h).elim exec_clamp_no_leaf exec_clamp_written
  | .pmul _, h => (need_fresh_eq_false.mp h).elim exec_pmul_no_scalar exec_pmul_written
  | .penc _, h => (need_fresh_eq_false.mp h).elim exec_penc_no_point exec_penc_written
  | .bind _, h => exec_bind_unread (need_need_eq_false.mp h)

/-- An operation whose SEQ checks pass makes its writes, or takes the fault of a check of its own, or is HALT with both bindings
made. -/
theorem exec_of_seqChecksPass {i : Instr} {s : State} (h : seqChecksPass i s = true) :
    (∃ u, Writes i s u) ∨ (∃ c, exec i s = .next (s.raiseFault c) ∧ c ≠ .seq) ∨
      exec i s = .next { s.wipe with runState := .sat } := by
  cases i with
  | chk =>
    by_cases valid : s.incnt = 160
    · by_cases admitted : ∀ p, s.pathsAdmitted p = true
      · exact .inl ⟨_, .chk ((frameValid_iff s).mpr valid) ((lanes_admitted_iff s).mpr admitted)⟩
      · exact .inr (.inl ⟨_, exec_chk_not_admitted valid admitted, nofun⟩)
    · exact .inr (.inl ⟨_, exec_chk_invalid valid, nofun⟩)
  | shai => exact .inl ⟨_, .shai⟩
  | shab =>
    obtain ⟨⟨hin, hash⟩, block, blk⟩ := need_need_eq_true.mp h
    exact .inl ⟨_, .shab hash blk⟩
  | hmac =>
    obtain ⟨⟨k0, key⟩, m, message⟩ := need_need_eq_true.mp h
    exact .inl ⟨_, .hmac key message⟩
  | mkd =>
    obtain ⟨⟨seed, view⟩, unwritten⟩ := need_fresh_eq_true.mp h
    exact .inl ⟨_, .mkd view unwritten⟩
  | ckd p l =>
    obtain ⟨hread, hfresh⟩ := Bool.and_eq_true_iff.mp h
    obtain ⟨⟨parent, above⟩, index, view⟩ := need_need_eq_true.mp hread
    have unwritten := Option.isNone_iff_eq_none.mp hfresh
    by_cases hi : index.toNat < 2 ^ 31
    · exact .inl ⟨_, .ckd above view unwritten (indexAdmitted_eq_true hi)⟩
    · exact .inr (.inl ⟨_, exec_ckd_not_admitted above view unwritten (not_lt.mp hi), nofun⟩)
  | clamp p =>
    obtain ⟨⟨k, leaf⟩, unwritten⟩ := need_fresh_eq_true.mp h
    exact .inl ⟨_, .clamp leaf unwritten⟩
  | pmul p =>
    obtain ⟨⟨v, scalar⟩, unwritten⟩ := need_fresh_eq_true.mp h
    obtain ⟨-, multiple⟩ | hcurve := Laws.checkedMulBase_cases v
    · exact .inl ⟨_, .pmul scalar unwritten multiple⟩
    · exact .inr (.inl ⟨_, exec_pmul_off_curve scalar unwritten hcurve, nofun⟩)
  | penc p =>
    obtain ⟨⟨q, point⟩, unwritten⟩ := need_fresh_eq_true.mp h
    exact .inl ⟨_, .penc point unwritten⟩
  | bind p =>
    obtain ⟨⟨e, computed⟩, k, supplied⟩ := need_need_eq_true.mp h
    by_cases hek : e = k
    · subst hek
      exact .inl ⟨_, .bind computed supplied⟩
    · exact .inr (.inl ⟨_, exec_bind_of_ne computed supplied hek, nofun⟩)
  | halt =>
    by_cases h1 : s.lane1.bound = true
    · by_cases h2 : s.lane2.bound = true
      · exact .inr (.inr (exec_halt_bound h1 h2))
      · exact .inr (.inl ⟨_, exec_halt_unbound (.inr (Bool.eq_false_iff.mpr h2)), nofun⟩)
    · exact .inr (.inl ⟨_, exec_halt_unbound (.inl (Bool.eq_false_iff.mpr h1)), nofun⟩)

/-- The advance of UPC raises no fault but ILLOP. -/
theorem advance_err_ne_seq {s : State} (h : s.err ≠ .raised .seq) : s.advance.err ≠ .raised .seq := by
  obtain ⟨-, ha⟩ | ⟨-, ha⟩ := advance_cases s <;> rw [ha]
  · exact h
  · simp

/-- An operation whose SEQ checks pass does not end with SEQ, unless ERR held it before. -/
theorem err_ne_seq_of_seqChecksPass {i : Instr} {s t : State} (hpass : seqChecksPass i s = true)
    (hs : s.err ≠ .raised .seq) (h : exec i s = .next t) : t.err ≠ .raised .seq := by
  obtain ⟨u, hw⟩ | ⟨c, hfault, hc⟩ | hsat := exec_of_seqChecksPass hpass
  · obtain rfl := Host.Outcome.next.inj (hw.exec_eq.symm.trans h)
    exact advance_err_ne_seq (hw.err_eq ▸ hs)
  · obtain rfl := Host.Outcome.next.inj (hfault.symm.trans h)
    rw [raiseFault_err]
    exact fun e => hc (ErrValue.raised.inj e)
  · obtain rfl := Host.Outcome.next.inj (hsat.symm.trans h)
    exact hs

/-- A frame that is not valid has no bytes to view (R23). -/
theorem frameBytes_of_invalid {s : State} (h : s.incnt ≠ 160) (a n : Nat) : s.frameBytes a n = none :=
  if_neg (mt (frameValid_iff s).mp h)

/-- Settles O19: a failing check is the fault entry with SEQ, passing ones leave no way to SEQ, and every view is one of the
frame's bytes. -/
theorem seqChecksAreComplete : Obligations.SeqChecksAreComplete := by
  refine ⟨fun _ _ => exec_of_seqChecksFail, fun _ _ _ => err_ne_seq_of_seqChecksPass,
    fun s h => ⟨?_, fun p => ?_, fun p l => ?_⟩⟩
  · rw [State.seedView, frameBytes_of_invalid h, Option.map_none]
  · cases p <;> rw [State.pubkeyView, frameBytes_of_invalid h, Option.map_none]
  · rw [State.pathView, frameBytes_of_invalid h, Option.map_none]

end Sys2Proof.Machine
end
